-- ==== Sys2Proof/Word.lean ====
section
/-! DEFINITION. The word types of the hardware: 16-bit words (R2), register indices (R3), and the bytes of the
program image (R37; inside the CORE there are no bytes). -/

namespace Sys2Proof

/-- A register value, a memory word, an instruction word, an address or a `pc` value: a 16-bit pattern (R2, R4, R5). -/
abbrev Word := BitVec 16

/-- A byte of the host's program image; the CORE itself moves whole words only (R37). -/
abbrev Byte := BitVec 8

/-- A register index 0..7, as a 3-bit register field presents it (R3, R12). -/
abbrev RegIdx := Fin 8

end Sys2Proof
end

