-- ==== Sys2Proof/Syntax.lean ====
section
/-! DEFINITION. The instructions: one constructor per row of spec/opcode_table.json, in the table's order. -/

namespace Sys2Proof

/-- One constructor per row of spec/opcode_table.json. A field that the instruction ignores on every path and that the
spec's own assembler writes as zeros (bits 4:3 of the register forms, bits 11:8 of TRAP: R62, R65) is not kept; the
raw 12-bit field of a placeholder is (R65 writes it as `LD #r`), although nothing reads it (R58). The six `notBadPad`
constructors are the table's six NOT_BADPAD rows, which split the 63 illegal pads of NOT (R60) by their leading ones;
which pads fit which row is `Instr.wf`. -/
inductive Instr where
  | br (n z p : Bool) (offset9 : BitVec 9)                -- R95
  | addReg (dest src1 src2 : RegIdx)                      -- R85
  | addImm (dest src1 : RegIdx) (imm5 : BitVec 5)         -- R86
  | ld (unused : BitVec 12)                               -- R108
  | st (unused : BitVec 12)                               -- R113
  | jsr (unused : BitVec 12)                              -- R107
  | andReg (dest src1 src2 : RegIdx)                      -- R87
  | andImm (dest src1 : RegIdx) (imm5 : BitVec 5)         -- R88
  | ldr (unused : BitVec 12)                              -- R110
  | str (unused : BitVec 12)                              -- R115
  | rti (unused : BitVec 12)                              -- R112
  | not (dest src : RegIdx)                               -- R89
  | notBadPad0 (dest src : RegIdx) (pad : BitVec 6)       -- R121, pad 0xxxxx
  | notBadPad10 (dest src : RegIdx) (pad : BitVec 6)      -- R121, pad 10xxxx
  | notBadPad110 (dest src : RegIdx) (pad : BitVec 6)     -- R121, pad 110xxx
  | notBadPad1110 (dest src : RegIdx) (pad : BitVec 6)    -- R121, pad 1110xx
  | notBadPad11110 (dest src : RegIdx) (pad : BitVec 6)   -- R121, pad 11110x
  | notBadPad111110 (dest src : RegIdx) (pad : BitVec 6)  -- R121, pad 111110
  | ldi (unused : BitVec 12)                              -- R109
  | sti (unused : BitVec 12)                              -- R114
  | jmpRet (unused : BitVec 12)                           -- R106
  | rsv (unused : BitVec 12)                              -- R116
  | lea (unused : BitVec 12)                              -- R111
  | trap (vector8 : BitVec 8)                             -- R98
  deriving DecidableEq, Repr

end Sys2Proof
end

