-- ==== Sys2Proof/WellFormed.lean ====
section
/-! DEFINITION. Which terms of `Instr` stand for an instruction word. Every field is as wide as its place in the word,
so the one thing left to check is that the pad of a NOT_BADPAD row is one of that row's pads. -/

namespace Sys2Proof

/-- The pad fits the row's pattern of leading bits (spec/opcode_table.json, the rows' `pad` field). -/
def padFits (mask pattern pad : BitVec 6) : Bool := pad &&& mask == pattern

/-- A well-formed instruction: one that some instruction word decodes to (R60, R64). -/
def Instr.wf : Instr → Bool
  | .br _ _ _ _ => true
  | .addReg _ _ _ => true
  | .addImm _ _ _ => true
  | .ld _ => true
  | .st _ => true
  | .jsr _ => true
  | .andReg _ _ _ => true
  | .andImm _ _ _ => true
  | .ldr _ => true
  | .str _ => true
  | .rti _ => true
  | .not _ _ => true
  | .notBadPad0 _ _ pad => padFits 0b100000#6 0b000000#6 pad
  | .notBadPad10 _ _ pad => padFits 0b110000#6 0b100000#6 pad
  | .notBadPad110 _ _ pad => padFits 0b111000#6 0b110000#6 pad
  | .notBadPad1110 _ _ pad => padFits 0b111100#6 0b111000#6 pad
  | .notBadPad11110 _ _ pad => padFits 0b111110#6 0b111100#6 pad
  | .notBadPad111110 _ _ pad => padFits 0b111111#6 0b111110#6 pad
  | .ldi _ => true
  | .sti _ => true
  | .jmpRet _ => true
  | .rsv _ => true
  | .lea _ => true
  | .trap _ => true

end Sys2Proof
end

