-- ==== Sys2Proof/Decode.lean ====
section
/-! DEFINITION. The decoder (30_encoding.md), read from fixed bit positions as R47 asks, total on the 65536 words
(R64); the encoder, written field by field (R52 to R58, R65, R67); and the opcode table's rows as masks and patterns. -/

namespace Sys2Proof

/-! ## The fields of an instruction word (R51 to R58) -/

/-- The opcode, `w[15:12]` (R6, R51). -/
def opcodeField (w : Word) : BitVec 4 := w.extractLsb' 12 4

/-- `dest = w[11:9]` (R52, R53). -/
def destField (w : Word) : RegIdx := (w.extractLsb' 9 3).toFin

/-- `src1 = w[8:6]` of the operate format, `src` of the NOT format (R52, R53). -/
def src1Field (w : Word) : RegIdx := (w.extractLsb' 6 3).toFin

/-- `src2 = w[2:0]` of the register form (R52). -/
def src2Field (w : Word) : RegIdx := (w.extractLsb' 0 3).toFin

/-- `imm5 = w[4:0]` of the immediate form (R52). -/
def imm5Field (w : Word) : BitVec 5 := w.extractLsb' 0 5

/-- `mode = w[5]` of the operate format: 1 selects the immediate form (R52). -/
def modeField (w : Word) : Bool := w.getLsbD 5

/-- `pad = w[5:0]` of the NOT format (R53). -/
def padField (w : Word) : BitVec 6 := w.extractLsb' 0 6

/-- `offset9 = w[8:0]` of the branch format (R56). -/
def offset9Field (w : Word) : BitVec 9 := w.extractLsb' 0 9

/-- `vector8 = w[7:0]` of the trap format (R57). -/
def vector8Field (w : Word) : BitVec 8 := w.extractLsb' 0 8

/-- Bits 11:0 of a placeholder or reserved word, which nothing reads (R58). -/
def unusedField (w : Word) : BitVec 12 := w.extractLsb' 0 12

/-! ## The decoder -/

/-- Opcode 1001: bits 5:0 all ones select NOT, every other value is illegal and selects the NOT_BADPAD row whose
leading bits it has (R53, R60, spec/opcode_table.json). -/
def decodeNot (w : Word) : Instr :=
  match w.getLsbD 5, w.getLsbD 4, w.getLsbD 3, w.getLsbD 2, w.getLsbD 1, w.getLsbD 0 with
  | false, _, _, _, _, _ => .notBadPad0 (destField w) (src1Field w) (padField w)
  | true, false, _, _, _, _ => .notBadPad10 (destField w) (src1Field w) (padField w)
  | true, true, false, _, _, _ => .notBadPad110 (destField w) (src1Field w) (padField w)
  | true, true, true, false, _, _ => .notBadPad1110 (destField w) (src1Field w) (padField w)
  | true, true, true, true, false, _ => .notBadPad11110 (destField w) (src1Field w) (padField w)
  | true, true, true, true, true, false => .notBadPad111110 (destField w) (src1Field w) (padField w)
  | true, true, true, true, true, true => .not (destField w) (src1Field w)

/-- The instruction that a word is. The match is complete over the sixteen values of bits 15:12 (R59), so no word is
undecodable and there is no `InvalidOpcode` arm (R64, R124, decision D28). -/
def decode (w : Word) : Instr :=
  match w.getLsbD 15, w.getLsbD 14, w.getLsbD 13, w.getLsbD 12 with
  | false, false, false, false => .br (w.getLsbD 11) (w.getLsbD 10) (w.getLsbD 9) (offset9Field w)
  | false, false, false, true =>
    if modeField w then .addImm (destField w) (src1Field w) (imm5Field w)
    else .addReg (destField w) (src1Field w) (src2Field w)
  | false, false, true, false => .ld (unusedField w)
  | false, false, true, true => .st (unusedField w)
  | false, true, false, false => .jsr (unusedField w)
  | false, true, false, true =>
    if modeField w then .andImm (destField w) (src1Field w) (imm5Field w)
    else .andReg (destField w) (src1Field w) (src2Field w)
  | false, true, true, false => .ldr (unusedField w)
  | false, true, true, true => .str (unusedField w)
  | true, false, false, false => .rti (unusedField w)
  | true, false, false, true => decodeNot w
  | true, false, true, false => .ldi (unusedField w)
  | true, false, true, true => .sti (unusedField w)
  | true, true, false, false => .jmpRet (unusedField w)
  | true, true, false, true => .rsv (unusedField w)
  | true, true, true, false => .lea (unusedField w)
  | true, true, true, true => .trap (vector8Field w)

/-- Why a sequence of words holds no instruction. -/
inductive DecodeError where
  /-- There is no word: every instruction is one word (R45). -/
  | noWord
  deriving DecidableEq, Repr

/-- The instruction at the head of a sequence of words, and the rest. Every instruction is one word, so the only
sequence that is refused is the empty one (R45, R64). -/
def decodeWords : List Word → Except DecodeError (Instr × List Word)
  | [] => .error .noWord
  | w :: rest => .ok (decode w, rest)

/-- The host's question: the instruction read from the `nbits` low bits of `w`, bits above them 0. An instruction has
16 bits (R45), so more than 16 are refused. -/
def decodeTableWord (nbits w : Nat) : Option Instr :=
  if nbits ≤ 16 then
    match decodeWords [BitVec.ofNat 16 (w % 2 ^ nbits)] with
    | .ok (i, _) => some i
    | .error _ => none
  else none

/-! ## The encoder -/

/-- A register index as its 3-bit field. -/
def regBits (r : RegIdx) : BitVec 3 := BitVec.ofFin r

/-- A word of the operate format, register form; the skipped bits 4:3 are written as 00 (R52, R65). -/
def operateRegWord (op : BitVec 4) (dest src1 src2 : RegIdx) : Word :=
  op ++ regBits dest ++ regBits src1 ++ 0#1 ++ 0#2 ++ regBits src2

/-- A word of the operate format, immediate form (R52). -/
def operateImmWord (op : BitVec 4) (dest src1 : RegIdx) (imm5 : BitVec 5) : Word :=
  op ++ regBits dest ++ regBits src1 ++ 1#1 ++ imm5

/-- A word with opcode 1001 (R53; with a pad other than 111111 an illegal one, R60). -/
def notWord (dest src : RegIdx) (pad : BitVec 6) : Word :=
  0b1001#4 ++ regBits dest ++ regBits src ++ pad

/-- A word of the branch format (R56). -/
def branchWord (n z p : Bool) (offset9 : BitVec 9) : Word :=
  0b0000#4 ++ BitVec.ofBool n ++ BitVec.ofBool z ++ BitVec.ofBool p ++ offset9

/-- A word of the trap format; the ignored pad, bits 11:8, is written as 0000 (R57, R65). -/
def trapWord (vector8 : BitVec 8) : Word := 0b1111#4 ++ 0#4 ++ vector8

/-- A word of the placeholder format (R58). -/
def placeholderWord (op : BitVec 4) (unused : BitVec 12) : Word := op ++ unused

/-- The opcode of an instruction (R59). -/
def Instr.opcode : Instr → BitVec 4
  | .br _ _ _ _ => 0b0000#4
  | .addReg _ _ _ => 0b0001#4
  | .addImm _ _ _ => 0b0001#4
  | .ld _ => 0b0010#4
  | .st _ => 0b0011#4
  | .jsr _ => 0b0100#4
  | .andReg _ _ _ => 0b0101#4
  | .andImm _ _ _ => 0b0101#4
  | .ldr _ => 0b0110#4
  | .str _ => 0b0111#4
  | .rti _ => 0b1000#4
  | .not _ _ => 0b1001#4
  | .notBadPad0 _ _ _ => 0b1001#4
  | .notBadPad10 _ _ _ => 0b1001#4
  | .notBadPad110 _ _ _ => 0b1001#4
  | .notBadPad1110 _ _ _ => 0b1001#4
  | .notBadPad11110 _ _ _ => 0b1001#4
  | .notBadPad111110 _ _ _ => 0b1001#4
  | .ldi _ => 0b1010#4
  | .sti _ => 0b1011#4
  | .jmpRet _ => 0b1100#4
  | .rsv _ => 0b1101#4
  | .lea _ => 0b1110#4
  | .trap _ => 0b1111#4

/-- The word of a well-formed instruction, field by field (R67). -/
def encode : Instr → Word
  | .br n z p offset9 => branchWord n z p offset9
  | .addReg dest src1 src2 => operateRegWord 0b0001#4 dest src1 src2
  | .addImm dest src1 imm5 => operateImmWord 0b0001#4 dest src1 imm5
  | .ld unused => placeholderWord 0b0010#4 unused
  | .st unused => placeholderWord 0b0011#4 unused
  | .jsr unused => placeholderWord 0b0100#4 unused
  | .andReg dest src1 src2 => operateRegWord 0b0101#4 dest src1 src2
  | .andImm dest src1 imm5 => operateImmWord 0b0101#4 dest src1 imm5
  | .ldr unused => placeholderWord 0b0110#4 unused
  | .str unused => placeholderWord 0b0111#4 unused
  | .rti unused => placeholderWord 0b1000#4 unused
  | .not dest src => notWord dest src 0b111111#6
  | .notBadPad0 dest src pad => notWord dest src pad
  | .notBadPad10 dest src pad => notWord dest src pad
  | .notBadPad110 dest src pad => notWord dest src pad
  | .notBadPad1110 dest src pad => notWord dest src pad
  | .notBadPad11110 dest src pad => notWord dest src pad
  | .notBadPad111110 dest src pad => notWord dest src pad
  | .ldi unused => placeholderWord 0b1010#4 unused
  | .sti unused => placeholderWord 0b1011#4 unused
  | .jmpRet unused => placeholderWord 0b1100#4 unused
  | .rsv unused => placeholderWord 0b1101#4 unused
  | .lea unused => placeholderWord 0b1110#4 unused
  | .trap vector8 => trapWord vector8

/-! ## The don't-care bits (R62) -/

/-- The bits of a word that take part in what its instruction does: all but bits 4:3 of the ADD and AND register
forms, bits 11:8 of TRAP and bits 11:0 of the placeholder and reserved opcodes (R62). -/
def careMask (w : Word) : Word :=
  if opcodeField w = 0b0001#4 ∨ opcodeField w = 0b0101#4 then (if modeField w then 0xFFFF#16 else 0xFFE7#16)
  else if opcodeField w = 0b1111#4 then 0xF0FF#16
  else if opcodeField w = 0b0000#4 ∨ opcodeField w = 0b1001#4 then 0xFFFF#16
  else 0xF000#16

/-! ## The rows of spec/opcode_table.json -/

/-- A row of the table: its mnemonic as the table spells it, its mask and its match. -/
structure OpcodeRow where
  mnemonic : String
  mask : Word
  pattern : Word
  deriving DecidableEq, Repr

/-- The word belongs to the row. -/
def OpcodeRow.fits (r : OpcodeRow) (w : Word) : Bool := w &&& r.mask == r.pattern

/-- The row an instruction stands for. -/
def Instr.row : Instr → OpcodeRow
  | .br _ _ _ _ => ⟨"BR", 0xF000#16, 0x0000#16⟩
  | .addReg _ _ _ => ⟨"ADD", 0xF020#16, 0x1000#16⟩
  | .addImm _ _ _ => ⟨"ADD", 0xF020#16, 0x1020#16⟩
  | .ld _ => ⟨"LD", 0xF000#16, 0x2000#16⟩
  | .st _ => ⟨"ST", 0xF000#16, 0x3000#16⟩
  | .jsr _ => ⟨"JSR", 0xF000#16, 0x4000#16⟩
  | .andReg _ _ _ => ⟨"AND", 0xF020#16, 0x5000#16⟩
  | .andImm _ _ _ => ⟨"AND", 0xF020#16, 0x5020#16⟩
  | .ldr _ => ⟨"LDR", 0xF000#16, 0x6000#16⟩
  | .str _ => ⟨"STR", 0xF000#16, 0x7000#16⟩
  | .rti _ => ⟨"RTI", 0xF000#16, 0x8000#16⟩
  | .not _ _ => ⟨"NOT", 0xF03F#16, 0x903F#16⟩
  | .notBadPad0 _ _ _ => ⟨"NOT_BADPAD", 0xF020#16, 0x9000#16⟩
  | .notBadPad10 _ _ _ => ⟨"NOT_BADPAD", 0xF030#16, 0x9020#16⟩
  | .notBadPad110 _ _ _ => ⟨"NOT_BADPAD", 0xF038#16, 0x9030#16⟩
  | .notBadPad1110 _ _ _ => ⟨"NOT_BADPAD", 0xF03C#16, 0x9038#16⟩
  | .notBadPad11110 _ _ _ => ⟨"NOT_BADPAD", 0xF03E#16, 0x903C#16⟩
  | .notBadPad111110 _ _ _ => ⟨"NOT_BADPAD", 0xF03F#16, 0x903E#16⟩
  | .ldi _ => ⟨"LDI", 0xF000#16, 0xA000#16⟩
  | .sti _ => ⟨"STI", 0xF000#16, 0xB000#16⟩
  | .jmpRet _ => ⟨"JMP_RET", 0xF000#16, 0xC000#16⟩
  | .rsv _ => ⟨"RSV", 0xF000#16, 0xD000#16⟩
  | .lea _ => ⟨"LEA", 0xF000#16, 0xE000#16⟩
  | .trap _ => ⟨"TRAP", 0xF000#16, 0xF000#16⟩

/-- The table's twenty-four rows in its order. -/
def opcodeTable : List OpcodeRow :=
  [⟨"BR", 0xF000#16, 0x0000#16⟩, ⟨"ADD", 0xF020#16, 0x1000#16⟩, ⟨"ADD", 0xF020#16, 0x1020#16⟩,
   ⟨"LD", 0xF000#16, 0x2000#16⟩, ⟨"ST", 0xF000#16, 0x3000#16⟩, ⟨"JSR", 0xF000#16, 0x4000#16⟩,
   ⟨"AND", 0xF020#16, 0x5000#16⟩, ⟨"AND", 0xF020#16, 0x5020#16⟩, ⟨"LDR", 0xF000#16, 0x6000#16⟩,
   ⟨"STR", 0xF000#16, 0x7000#16⟩, ⟨"RTI", 0xF000#16, 0x8000#16⟩] ++
  [⟨"NOT", 0xF03F#16, 0x903F#16⟩, ⟨"NOT_BADPAD", 0xF020#16, 0x9000#16⟩, ⟨"NOT_BADPAD", 0xF030#16, 0x9020#16⟩,
   ⟨"NOT_BADPAD", 0xF038#16, 0x9030#16⟩, ⟨"NOT_BADPAD", 0xF03C#16, 0x9038#16⟩,
   ⟨"NOT_BADPAD", 0xF03E#16, 0x903C#16⟩, ⟨"NOT_BADPAD", 0xF03F#16, 0x903E#16⟩] ++
  [⟨"LDI", 0xF000#16, 0xA000#16⟩, ⟨"STI", 0xF000#16, 0xB000#16⟩, ⟨"JMP_RET", 0xF000#16, 0xC000#16⟩,
   ⟨"RSV", 0xF000#16, 0xD000#16⟩, ⟨"LEA", 0xF000#16, 0xE000#16⟩, ⟨"TRAP", 0xF000#16, 0xF000#16⟩]

end Sys2Proof
end

