-- ==== Sys2Proof/Config.lean ====
section
/-! DEFINITION. The named parameters of the spec (00_scope.md section 4, table; 93_implementation_defined.md section 1).
Their types and the record that holds one choice of them stand here; the NORMATIVE choice, which the machine runs with,
is `Sys2Proof.Machine.params` (Machine/Params.lean). The spec leaves no value of this hardware undefined, so there is no
free value and nothing opaque here. -/

namespace Sys2Proof

/-- How an instruction field becomes a 16-bit value: the two values of `Imm5Extension` and `Off9Extension`
(00_scope.md sections 4 and 5). -/
inductive Extension where
  | zext   -- the high bits are 0
  | sext   -- the high bits copy the field's top bit
  deriving DecidableEq, Repr

/-- The two values of `PlaceholderPolicy` (R105, decision D11): execute a placeholder opcode as a no-op, or refuse it. -/
inductive PlaceholderPolicy where
  | nop
  | refuse
  deriving DecidableEq, Repr

/-- One choice of the spec's named parameters. -/
structure Params where
  /-- `Imm5Extension` (R54, decision D5): how ADD and AND extend `imm5`. -/
  imm5Extension : Extension
  /-- `Off9Extension` (R55, decision D4): how BR extends `offset9`. -/
  off9Extension : Extension
  /-- `PlaceholderPolicy` (R105, decision D11): what the ten placeholder opcodes do. -/
  placeholderPolicy : PlaceholderPolicy
  /-- `TOP_ADDR` (R73, decision D3): the address at which the Execution Loop stops. -/
  topAddr : Word
  deriving DecidableEq, Repr

end Sys2Proof
end

