-- ==== Sys2Proof/Machine/Params.lean ====
section
/-! DEFINITION. The normative values of the spec's parameters (00_scope.md section 4) and the halt vector (R7). -/

namespace Sys2Proof.Machine

/-- The normative parameter values: immediates and offsets are zero-extended (R54, R55), a placeholder is a no-op
(R105), the loop stops at 0xFFFF (R73). Logs 4 to 7. -/
def params : Params :=
  { imm5Extension := .zext, off9Extension := .zext, placeholderPolicy := .nop, topAddr := 0xFFFF#16 }

/-- The TRAP vector that halts (R7). -/
def haltVector : BitVec 8 := 0x25#8

end Sys2Proof.Machine
end

