-- ==== Sys2Proof/Machine/State.lean ====
section
/-! DEFINITION. The state of the CORE (10_state.md), what ends a run, why a step stops, and the state after reset. -/

namespace Sys2Proof.Machine

/-- A recoverable error (R18; 60_exceptions.md codes 1 and 2). -/
inductive RunError where
  /-- TRAP with a vector other than 0x25; records the vector (R120). -/
  | unsupportedTrap (vector : BitVec 8)
  /-- The dispatcher found no handler for the opcode. Unreachable: all sixteen have one (R124, R64). -/
  | invalidOpcode (code : BitVec 4)
  deriving DecidableEq, Repr

/-- A fatal fault (R18; 60_exceptions.md codes 3 to 5). -/
inductive FatalFault where
  /-- NOT whose bits 5:0 are not all ones; records the instruction word (R121). -/
  | badPadding (word : Word)
  /-- A Bit-Field Reader was asked for more bits than remain; records its word. Unreachable from a handler (R123, R50). -/
  | readerOverrun (word : Word)
  /-- A register accessor was given an index outside 0..7. Reachable from the host side only (R122). -/
  | badRegisterIndex (index : Nat)
  deriving DecidableEq, Repr

/-- The run state `run` (R18). -/
inductive RunState where
  | running
  | halted
  | error (e : RunError)
  | fatal (f : FatalFault)
  deriving DecidableEq, Repr

/-- The 65536 words of memory (R21, R30) as a list of (address, word) cells. The unit of this hardware is the 16-bit
word: inside the CORE there are no bytes (R37). The canonical form is `Memory.wf` (Machine/Ops.lean). -/
abbrev Memory := List (Nat × Word)

/-- The architectural state, exactly the tuple of R10. -/
structure State where
  /-- The register file R0 to R7 (R11). -/
  x : Vector Word 8
  /-- The program counter (R19). -/
  pc : Word
  /-- The condition source: the index of the most recently written register (R15). -/
  cond : RegIdx
  /-- The memory (R21). -/
  mem : Memory
  /-- The run state (R18). -/
  run : RunState
  deriving DecidableEq, Repr

/-- Why a step or a host operation stops. -/
inductive Fault where
  /-- Raised by `step` when `run` is not `Running`: no Step exists, the run is over (R71, R77). Safe: the model stops
  where the spec has no transition. -/
  | noStepEnabled (run : RunState)
  /-- Raised by `hostDispatch` after a fatal fault: no operation is defined (R80, R126). Safe: the model stops where
  the spec defines nothing. -/
  | afterFatal (f : FatalFault)
  deriving DecidableEq, Repr

/-- Why an instruction is refused. -/
inductive Refusal where
  /-- Raised by `exec` for an instruction that has no meaning yet. No arm of `exec` answers with it. Safe. -/
  | notModelled (mnemonic : String)
  /-- Raised for a placeholder opcode under `PlaceholderPolicy = Refuse` (R105, D11). The machine runs with the
  normative policy `Nop`, so `exec` never answers with it. Safe. -/
  | placeholderRefused (mnemonic : String)
  deriving DecidableEq, Repr

/-- How the dispatch of an instruction ends (R70). An error or a fault carries no state, because a handler that raises
one has written nothing (R125). -/
inductive HandlerResult where
  /-- `signal Continue`, with the state the handler left. -/
  | continues (s : State)
  /-- `signal Halt`, with the state the handler left. -/
  | halts (s : State)
  /-- A recoverable error. -/
  | error (e : RunError)
  /-- A fatal fault. -/
  | fatal (f : FatalFault)
  /-- A placeholder opcode under the policy `Refuse` (R105). -/
  | refuses (mnemonic : String)
  deriving DecidableEq, Repr

/-- The machine right after reset, that is, after the host's `Create` (R23, R140): registers 0, `pc` 0, `cond` 0,
every memory word 0 (so nothing is listed), `run` Running. -/
def State.reset : State :=
  { x := Vector.replicate 8 0#16, pc := 0#16, cond := 0, mem := [], run := .running }

end Sys2Proof.Machine
end

