-- ==== Sys2Proof/Machine/Ops.lean ====
section
/-! DEFINITION. The named operations over registers, memory, `pc` and `run`, the recording of an error or a fault, and
what a Step does after dispatch. -/

namespace Sys2Proof.Machine

/-! ## Registers (10_state.md section 2) -/

/-- `x[i]` (R12). -/
def State.reg (s : State) (i : RegIdx) : Word := s.x[i]

/-- `x[i] <- v`: register `i` takes `v` AND the condition source takes `i` (R13). The one register write. -/
def State.writeReg (s : State) (i : RegIdx) (v : Word) : State :=
  { s with x := s.x.set i v, cond := i }

/-- The source's register accessor on any index: outside 0..7 it fails fast (R12, R122). -/
def getRegister (i : Nat) (s : State) : Except FatalFault Word :=
  if h : i < 8 then .ok (s.reg ⟨i, h⟩) else .error (.badRegisterIndex i)

/-- The source's `set_register` on any index (R13, R122). -/
def setRegister (i : Nat) (v : Word) (s : State) : Except FatalFault State :=
  if h : i < 8 then .ok (s.writeReg ⟨i, h⟩ v) else .error (.badRegisterIndex i)

/-! ## Memory (20_memory.md section 2) -/

/-- What an unlisted address reads as: the reset contents (R23). -/
def Memory.unlisted : Word := 0#16

/-- The canonical form: addresses strictly rising and inside the 65536-word space, and no cell holding what an unlisted
address reads as. Equal memories are then equal lists. -/
abbrev Memory.wf (m : Memory) : Prop :=
  m.Pairwise (fun c d => c.1 < d.1) ∧ ∀ c ∈ m, c.1 < 65536 ∧ c.2 ≠ Memory.unlisted

/-- The word at an address of the list. -/
def Memory.lookup : Memory → Nat → Word
  | [], _ => Memory.unlisted
  | (b, v) :: rest, a => if b = a then v else Memory.lookup rest a

/-- A cell in front of a list, unless it holds what an unlisted address reads as. -/
def Memory.cell (a : Nat) (v : Word) (rest : Memory) : Memory :=
  if v = Memory.unlisted then rest else (a, v) :: rest

/-- The list with the word at one address replaced, in canonical form. -/
def Memory.update : Memory → Nat → Word → Memory
  | [], a, v => Memory.cell a v []
  | (b, u) :: rest, a, v =>
    if a < b then Memory.cell a v ((b, u) :: rest)
    else if a = b then Memory.cell a v rest
    else (b, u) :: Memory.update rest a v

/-- `MemRead(addr, 1)` (R32). -/
def Memory.read (m : Memory) (a : Word) : Word := Memory.lookup m a.toNat

/-- `MemWrite(addr, 1, v)` (R34). -/
def Memory.write (m : Memory) (a : Word) (v : Word) : Memory := Memory.update m a.toNat v

/-- `MemWrite(pc0 + k, 1, words[k])` for each `k`, the addresses modulo 2^16 (R141). -/
def Memory.writeAll : Memory → Word → List Word → Memory
  | m, _, [] => m
  | m, a, v :: rest => Memory.writeAll (Memory.write m a v) (a + 1#16) rest

/-- `MemWrite(addr, 1, v)` on the state: it changes nothing else (R34). -/
def State.writeMem (s : State) (a : Word) (v : Word) : State := { s with mem := Memory.write s.mem a v }

/-- The fetch: the word at `pc`, the Step's only memory access (R32, R36, R72). -/
def State.fetch (s : State) : Word := Memory.read s.mem s.pc

/-! ## The program counter and the run state -/

/-- `pc <- target` (00_scope.md section 5). -/
def State.setPc (s : State) (target : Word) : State := { s with pc := target }

/-- `advance_pc(delta)`, modulo 65536 (R20). -/
def State.advancePc (s : State) (delta : Word) : State := s.setPc (s.pc + delta)

/-- `run <- r`. -/
def State.setRun (s : State) (r : RunState) : State := { s with run := r }

/-! ## Taking an exception

Nothing vectors, nothing is saved, no mode changes and nothing returns (R129, R130): an error or a fault is recorded in
`run`, and every other piece of state stays as it was before the instruction (R74, R125). These two operations are all
that raising one does. -/

/-- `run <- Error(e)` (R74, R120). -/
def raiseError (e : RunError) (s : State) : State := s.setRun (.error e)

/-- `run <- Fatal(f)` (R74, R121). -/
def raiseFatal (f : FatalFault) (s : State) : State := s.setRun (.fatal f)

/-! ## What a Step does after dispatch (R72 to R74) -/

/-- After `Continue`: at the top of the address space, tested on the `pc` the handler left, the loop stops and `pc`
stays; elsewhere `pc` advances by one (R72, R73). -/
def afterContinue (p : Params) (s : State) : State :=
  if s.pc = p.topAddr then s.setRun .halted else s.advancePc 1#16

/-- The end of a Step whose dispatch from `s` gave `r` (R72, R74, R128). -/
def retire (p : Params) (s : State) (r : HandlerResult) : Host.Outcome State Fault Refusal :=
  match r with
  | .continues s' => .next (afterContinue p s')
  | .halts s' => .next (s'.setRun .halted)
  | .error e => .next (raiseError e s)
  | .fatal f => .next (raiseFatal f s)
  | .refuses mnemonic => .refused (.placeholderRefused mnemonic)

end Sys2Proof.Machine
end

