-- ==== Sys2Proof/Machine/Operands.lean ====
section
/-! DEFINITION. The operand forms: a register, the ADD and AND immediate, the BR offset (30_encoding.md section 4). A
register operand is `State.reg`. -/

namespace Sys2Proof.Machine

/-- A field as a 16-bit value: `zext_16` or `sext_16` (00_scope.md section 5). -/
def extendField (e : Extension) {n : Nat} (field : BitVec n) : Word :=
  match e with
  | .zext => field.setWidth 16
  | .sext => field.signExtend 16

/-- The immediate operand of ADD and AND (R54). -/
def immOperand (p : Params) (imm5 : BitVec 5) : Word := extendField p.imm5Extension imm5

/-- The offset of BR (R55). -/
def branchOffset (p : Params) (offset9 : BitVec 9) : Word := extendField p.off9Extension offset9

end Sys2Proof.Machine
end

