-- ==== Sys2Proof/Machine/Alu.lean ====
section
/-! DEFINITION. ADD, AND, NOT and the illegal words of opcode 1001 (41_alu.md). A `handle…` is the instruction's handler
(R70); an `exec…` is the Step from its dispatch to its end (R72). -/

namespace Sys2Proof.Machine

/-! ## Handlers -/

/-- R85: `a <- x[src1]; b <- x[src2]; x[dest] <- a + b`. -/
def handleAddReg (dest src1 src2 : RegIdx) (s : State) : HandlerResult :=
  .continues (s.writeReg dest (s.reg src1 + s.reg src2))

/-- R86: `a <- x[src1]; x[dest] <- a + imm`. -/
def handleAddImm (p : Params) (dest src1 : RegIdx) (imm5 : BitVec 5) (s : State) : HandlerResult :=
  .continues (s.writeReg dest (s.reg src1 + immOperand p imm5))

/-- R87: `a <- x[src1]; b <- x[src2]; x[dest] <- a & b`. -/
def handleAndReg (dest src1 src2 : RegIdx) (s : State) : HandlerResult :=
  .continues (s.writeReg dest (s.reg src1 &&& s.reg src2))

/-- R88: `a <- x[src1]; x[dest] <- a & imm`. -/
def handleAndImm (p : Params) (dest src1 : RegIdx) (imm5 : BitVec 5) (s : State) : HandlerResult :=
  .continues (s.writeReg dest (s.reg src1 &&& immOperand p imm5))

/-- R89, whole: the pad check, which comes before the write (D8), then `x[dest] <- ~x[src]`. -/
def handleNot (dest src : RegIdx) (pad : BitVec 6) (s : State) : HandlerResult :=
  if pad = 0b111111#6 then .continues (s.writeReg dest (~~~ s.reg src))
  else .fatal (.badPadding (notWord dest src pad))

/-! ## Meanings -/

/-- ADD, register form (R85). -/
def execAddReg (dest src1 src2 : RegIdx) (s : State) : Host.Outcome State Fault Refusal :=
  retire params s (handleAddReg dest src1 src2 s)

/-- ADD, immediate form (R86). -/
def execAddImm (dest src1 : RegIdx) (imm5 : BitVec 5) (s : State) : Host.Outcome State Fault Refusal :=
  retire params s (handleAddImm params dest src1 imm5 s)

/-- AND, register form (R87). -/
def execAndReg (dest src1 src2 : RegIdx) (s : State) : Host.Outcome State Fault Refusal :=
  retire params s (handleAndReg dest src1 src2 s)

/-- AND, immediate form (R88). -/
def execAndImm (dest src1 : RegIdx) (imm5 : BitVec 5) (s : State) : Host.Outcome State Fault Refusal :=
  retire params s (handleAndImm params dest src1 imm5 s)

/-- NOT (R89). -/
def execNot (dest src : RegIdx) (s : State) : Host.Outcome State Fault Refusal :=
  retire params s (handleNot dest src 0b111111#6 s)

/-- NOT_BADPAD with pad 0xxxxx (R89, R121). -/
def execNotBadPad0 (dest src : RegIdx) (pad : BitVec 6) (s : State) : Host.Outcome State Fault Refusal :=
  retire params s (handleNot dest src pad s)

/-- NOT_BADPAD with pad 10xxxx (R89, R121). -/
def execNotBadPad10 (dest src : RegIdx) (pad : BitVec 6) (s : State) : Host.Outcome State Fault Refusal :=
  retire params s (handleNot dest src pad s)

/-- NOT_BADPAD with pad 110xxx (R89, R121). -/
def execNotBadPad110 (dest src : RegIdx) (pad : BitVec 6) (s : State) : Host.Outcome State Fault Refusal :=
  retire params s (handleNot dest src pad s)

/-- NOT_BADPAD with pad 1110xx (R89, R121). -/
def execNotBadPad1110 (dest src : RegIdx) (pad : BitVec 6) (s : State) : Host.Outcome State Fault Refusal :=
  retire params s (handleNot dest src pad s)

/-- NOT_BADPAD with pad 11110x (R89, R121). -/
def execNotBadPad11110 (dest src : RegIdx) (pad : BitVec 6) (s : State) : Host.Outcome State Fault Refusal :=
  retire params s (handleNot dest src pad s)

/-- NOT_BADPAD with pad 111110 (R89, R121). -/
def execNotBadPad111110 (dest src : RegIdx) (pad : BitVec 6) (s : State) : Host.Outcome State Fault Refusal :=
  retire params s (handleNot dest src pad s)

end Sys2Proof.Machine
end

