-- ==== Sys2Proof/Machine/Flags.lean ====
section
/-! DEFINITION. The sign classifier, the condition a branch tests and the branch predicate (10_state.md section 3,
42_control.md section 1). There are no other flags: no carry, no overflow (R90). -/

namespace Sys2Proof.Machine

/-- The three sign classes (R16). -/
inductive SignClass where
  | neg
  | zero
  | pos
  deriving DecidableEq, Repr

/-- `cls(v)` (R16). -/
def cls (v : Word) : SignClass :=
  if v.getLsbD 15 then .neg else if v = 0#16 then .zero else .pos

/-- The condition a branch tests: the class of the current value of the register the condition source names (R17). -/
def conditionClass (s : State) : SignClass := cls (s.reg s.cond)

/-- `taken(n, z, p, c)`: the class is among the requested ones, or none is requested (R96). -/
def taken (n z p : Bool) (c : SignClass) : Bool :=
  (n && c == .neg) || (z && c == .zero) || (p && c == .pos) || (!n && !z && !p)

end Sys2Proof.Machine
end

