-- ==== Sys2Proof/Machine/Control.lean ====
section
/-! DEFINITION. BR and TRAP (42_control.md). -/

namespace Sys2Proof.Machine

/-- R95: a taken branch adds its offset to `pc`, which holds BR's own address; the Step then advances by one. -/
def handleBr (p : Params) (n z pos : Bool) (offset9 : BitVec 9) (s : State) : HandlerResult :=
  if taken n z pos (conditionClass s) then .continues (s.advancePc (branchOffset p offset9))
  else .continues s

/-- R98: vector 0x25 halts, every other vector is the recoverable error `UnsupportedTrap`. -/
def handleTrap (vector8 : BitVec 8) (s : State) : HandlerResult :=
  if vector8 = haltVector then .halts s else .error (.unsupportedTrap vector8)

/-- BR (R95). -/
def execBr (n z p : Bool) (offset9 : BitVec 9) (s : State) : Host.Outcome State Fault Refusal :=
  retire params s (handleBr params n z p offset9 s)

/-- TRAP (R98). -/
def execTrap (vector8 : BitVec 8) (s : State) : Host.Outcome State Fault Refusal :=
  retire params s (handleTrap vector8 s)

end Sys2Proof.Machine
end

