-- ==== Sys2Proof/Machine/Placeholder.lean ====
section
/-! DEFINITION. The ten placeholder opcodes and the reserved opcode (43_placeholders.md). The raw field `unused` is not
read (R58). -/

namespace Sys2Proof.Machine

/-- What a placeholder opcode does (R105): under the normative policy `Nop` it reads nothing, writes nothing and signals
`Continue`; under `Refuse` it is refused by name. -/
def handlePlaceholder (p : Params) (mnemonic : String) (s : State) : HandlerResult :=
  match p.placeholderPolicy with
  | .nop => .continues s
  | .refuse => .refuses mnemonic

/-- What the reserved opcode does: `Continue` under every policy (R116, conflict C11). -/
def handleReserved (s : State) : HandlerResult := .continues s

/-- LD (R108): no memory read, no register write. -/
def execLd (_unused : BitVec 12) (s : State) : Host.Outcome State Fault Refusal :=
  retire params s (handlePlaceholder params "LD" s)

/-- ST (R113): no memory write. -/
def execSt (_unused : BitVec 12) (s : State) : Host.Outcome State Fault Refusal :=
  retire params s (handlePlaceholder params "ST" s)

/-- JSR (R107): no return address is written and `pc` does not jump. -/
def execJsr (_unused : BitVec 12) (s : State) : Host.Outcome State Fault Refusal :=
  retire params s (handlePlaceholder params "JSR" s)

/-- LDR (R110): no memory read, no register write. -/
def execLdr (_unused : BitVec 12) (s : State) : Host.Outcome State Fault Refusal :=
  retire params s (handlePlaceholder params "LDR" s)

/-- STR (R115): no memory write. -/
def execStr (_unused : BitVec 12) (s : State) : Host.Outcome State Fault Refusal :=
  retire params s (handlePlaceholder params "STR" s)

/-- RTI (R112): nothing is restored, no privilege is checked, nothing is raised. -/
def execRti (_unused : BitVec 12) (s : State) : Host.Outcome State Fault Refusal :=
  retire params s (handlePlaceholder params "RTI" s)

/-- LDI (R109): no memory read, no register write. -/
def execLdi (_unused : BitVec 12) (s : State) : Host.Outcome State Fault Refusal :=
  retire params s (handlePlaceholder params "LDI" s)

/-- STI (R114): no memory read or write. -/
def execSti (_unused : BitVec 12) (s : State) : Host.Outcome State Fault Refusal :=
  retire params s (handlePlaceholder params "STI" s)

/-- JMP_RET (R106): it does not jump and does not return. -/
def execJmpRet (_unused : BitVec 12) (s : State) : Host.Outcome State Fault Refusal :=
  retire params s (handlePlaceholder params "JMP_RET" s)

/-- LEA (R111): no register receives an address. -/
def execLea (_unused : BitVec 12) (s : State) : Host.Outcome State Fault Refusal :=
  retire params s (handlePlaceholder params "LEA" s)

/-- RSV, the reserved opcode 1101 (R61, R116): a no-op by definition. -/
def execRsv (_unused : BitVec 12) (s : State) : Host.Outcome State Fault Refusal :=
  retire params s (handleReserved s)

end Sys2Proof.Machine
end

