-- ==== Sys2Proof/Machine/Dispatch.lean ====
section
/-! DEFINITION. exec: one arm per instruction, each one call of its meaning. -/

namespace Sys2Proof.Machine

def exec (i : Instr) (s : State) : Host.Outcome State Fault Refusal :=
  match i with
  | .br n z p offset9 => Sys2Proof.Machine.execBr n z p offset9 s
  | .addReg dest src1 src2 => Sys2Proof.Machine.execAddReg dest src1 src2 s
  | .addImm dest src1 imm5 => Sys2Proof.Machine.execAddImm dest src1 imm5 s
  | .ld unused => Sys2Proof.Machine.execLd unused s
  | .st unused => Sys2Proof.Machine.execSt unused s
  | .jsr unused => Sys2Proof.Machine.execJsr unused s
  | .andReg dest src1 src2 => Sys2Proof.Machine.execAndReg dest src1 src2 s
  | .andImm dest src1 imm5 => Sys2Proof.Machine.execAndImm dest src1 imm5 s
  | .ldr unused => Sys2Proof.Machine.execLdr unused s
  | .str unused => Sys2Proof.Machine.execStr unused s
  | .rti unused => Sys2Proof.Machine.execRti unused s
  | .not dest src => Sys2Proof.Machine.execNot dest src s
  | .notBadPad0 dest src pad => Sys2Proof.Machine.execNotBadPad0 dest src pad s
  | .notBadPad10 dest src pad => Sys2Proof.Machine.execNotBadPad10 dest src pad s
  | .notBadPad110 dest src pad => Sys2Proof.Machine.execNotBadPad110 dest src pad s
  | .notBadPad1110 dest src pad => Sys2Proof.Machine.execNotBadPad1110 dest src pad s
  | .notBadPad11110 dest src pad => Sys2Proof.Machine.execNotBadPad11110 dest src pad s
  | .notBadPad111110 dest src pad => Sys2Proof.Machine.execNotBadPad111110 dest src pad s
  | .ldi unused => Sys2Proof.Machine.execLdi unused s
  | .sti unused => Sys2Proof.Machine.execSti unused s
  | .jmpRet unused => Sys2Proof.Machine.execJmpRet unused s
  | .rsv unused => Sys2Proof.Machine.execRsv unused s
  | .lea unused => Sys2Proof.Machine.execLea unused s
  | .trap vector8 => Sys2Proof.Machine.execTrap vector8 s

end Sys2Proof.Machine
end

