-- ==== Sys2Proof/Machine/Step.lean ====
section
/-! DEFINITION. One Step (40_cycle.md section 2), and the state in which a given word is the next to run. -/

namespace Sys2Proof.Machine

/-- One Step: enabled only when `run` is `Running` (R71); it fetches the word at `pc` and runs the instruction it
decodes to (R72). -/
def step (s : State) : Host.Outcome State Fault Refusal :=
  if s.run = .running then exec (decode s.fetch) s else .fault (.noStepEnabled s.run)

/-- `s` with the instruction `w` stored at `pc`, where the next Step fetches, and `run` at `Running`, which the fetch
needs (R71). Every instruction is one word (R45), the bits of `w` at and above `nbits` are 0. -/
def State.withFetchWord (s : State) (nbits w : Nat) : State :=
  (s.writeMem s.pc (BitVec.ofNat 16 (w % 2 ^ nbits))).setRun .running

end Sys2Proof.Machine
end

