-- ==== Sys2Proof/Machine/Handle.lean ====
section
/-! DEFINITION. `Dispatch(w)` of R70: the one handler the opcode map assigns to an instruction, and the Step of R72 built
on it, under any choice of the spec's parameters. `exec` (Machine/Dispatch.lean) is `handle` under the normative
parameters followed by `retire`. -/

namespace Sys2Proof.Machine

/-- The handler of an instruction, run on a state (R59, R70). -/
def handle (p : Params) (i : Instr) (s : State) : HandlerResult :=
  match i with
  | .br n z pos offset9 => handleBr p n z pos offset9 s
  | .addReg dest src1 src2 => handleAddReg dest src1 src2 s
  | .addImm dest src1 imm5 => handleAddImm p dest src1 imm5 s
  | .ld _ => handlePlaceholder p "LD" s
  | .st _ => handlePlaceholder p "ST" s
  | .jsr _ => handlePlaceholder p "JSR" s
  | .andReg dest src1 src2 => handleAndReg dest src1 src2 s
  | .andImm dest src1 imm5 => handleAndImm p dest src1 imm5 s
  | .ldr _ => handlePlaceholder p "LDR" s
  | .str _ => handlePlaceholder p "STR" s
  | .rti _ => handlePlaceholder p "RTI" s
  | .not dest src => handleNot dest src 0b111111#6 s
  | .notBadPad0 dest src pad => handleNot dest src pad s
  | .notBadPad10 dest src pad => handleNot dest src pad s
  | .notBadPad110 dest src pad => handleNot dest src pad s
  | .notBadPad1110 dest src pad => handleNot dest src pad s
  | .notBadPad11110 dest src pad => handleNot dest src pad s
  | .notBadPad111110 dest src pad => handleNot dest src pad s
  | .ldi _ => handlePlaceholder p "LDI" s
  | .sti _ => handlePlaceholder p "STI" s
  | .jmpRet _ => handlePlaceholder p "JMP_RET" s
  | .rsv _ => handleReserved s
  | .lea _ => handlePlaceholder p "LEA" s
  | .trap vector8 => handleTrap vector8 s

/-- `Dispatch(w)` on a word (R70). -/
def dispatchWord (p : Params) (w : Word) (s : State) : HandlerResult := handle p (decode w) s

/-- An instruction's Step from dispatch to end, under the parameters `p` (R72). -/
def execWith (p : Params) (i : Instr) (s : State) : Host.Outcome State Fault Refusal :=
  retire p s (handle p i s)

/-- The Step under the parameters `p` (R71, R72). -/
def stepWith (p : Params) (s : State) : Host.Outcome State Fault Refusal :=
  if s.run = .running then execWith p (decode s.fetch) s else .fault (.noStepEnabled s.run)

end Sys2Proof.Machine
end

