-- ==== Sys2Proof/Machine/ExplicitFlags.lean ====
section
/-! DEFINITION. The second representation of the condition latch that R17 allows: explicit N/Z/P flags, here the class
they encode, "recomputed on every register write", instead of the index of the last written register (D25). It is not the
machine; that the machine and it agree is a statement. -/

namespace Sys2Proof.Machine

/-- The state with the latched class beside it. -/
structure FlagState where
  core : State
  flag : SignClass
  deriving DecidableEq, Repr

/-- After reset the flags say Zero (R15, R23). -/
def FlagState.reset : FlagState := { core := State.reset, flag := .zero }

/-- The register an instruction writes (R14). -/
def writtenReg : Instr → Option RegIdx
  | .addReg dest _ _ | .addImm dest _ _ | .andReg dest _ _ | .andImm dest _ _ | .not dest _ => some dest
  | .br _ _ _ _ | .ld _ | .st _ | .jsr _ | .ldr _ | .str _ | .rti _ | .notBadPad0 _ _ _ | .notBadPad10 _ _ _
  | .notBadPad110 _ _ _ | .notBadPad1110 _ _ _ | .notBadPad11110 _ _ _ | .notBadPad111110 _ _ _ | .ldi _ | .sti _
  | .jmpRet _ | .rsv _ | .lea _ | .trap _ => none

/-- The flags after an instruction: those of the value it wrote, or as they were (R17). -/
def latchFlag (flag : SignClass) (written : Option RegIdx) (t : State) : SignClass :=
  match written with
  | some dest => cls (t.reg dest)
  | none => flag

/-- BR that tests the latched flags instead of re-reading a register. -/
def handleBrFlags (p : Params) (n z pos : Bool) (offset9 : BitVec 9) (f : FlagState) : HandlerResult :=
  if taken n z pos f.flag then .continues (f.core.advancePc (branchOffset p offset9)) else .continues f.core

/-- The handler in the machine with explicit flags. -/
def handleFlags (p : Params) (i : Instr) (f : FlagState) : HandlerResult :=
  match i with
  | .br n z pos offset9 => handleBrFlags p n z pos offset9 f
  | i => handle p i f.core

/-- The Step of the machine with explicit flags. -/
def FlagState.step (f : FlagState) : Host.Outcome FlagState Fault Refusal :=
  if f.core.run = .running then
    match retire params f.core (handleFlags params (decode f.core.fetch) f) with
    | .next t => .next { core := t, flag := latchFlag f.flag (writtenReg (decode f.core.fetch)) t }
    | .fault r => .fault r
    | .refused r => .refused r
  else .fault (.noStepEnabled f.core.run)

end Sys2Proof.Machine
end

