-- ==== Sys2Proof/Machine/HostInterface.lean ====
section
/-! DEFINITION. The host's operations of R79 on the state: Create is `State.reset`, Step is `step`; here are Load, Run,
Dispatch and ReadRegisters. -/

namespace Sys2Proof.Machine

/-! ## Load (70_reset_and_hazards.md R141) -/

/-- `Load(pc0, words)`: `pc <- pc0`, then one memory write per word from there on (R79, R141). -/
def load (pc0 : Word) (words : List Word) (s : State) : State :=
  { s with pc := pc0, mem := Memory.writeAll s.mem pc0 words }

/-- An image is the start PC and at most 65536 words; an empty image is no load (R141, D13). -/
def loadImage : List Word → State → Option State
  | [], _ => none
  | pc0 :: words, s => if words.length ≤ 65536 then some (load pc0 words s) else none

/-- The image file's bytes as words, big-endian pairs: the first byte of each pair is bits 15:8 (R37). -/
def wordsOfBytes : List Byte → Option (List Word)
  | [] => some []
  | [_] => none
  | hi :: lo :: rest => (wordsOfBytes rest).map (fun ws => (hi ++ lo) :: ws)

/-- Load from the bytes of an image file (R37, R141). -/
def loadBytes (bytes : List Byte) (s : State) : Option State :=
  (wordsOfBytes bytes).bind (fun image => loadImage image s)

/-! ## Run (R77, R78) -/

/-- What `Run()` reports (R77), or that the fuel of this executor ran out, which is no outcome of the machine (D23). -/
inductive RunReport where
  | success
  | error (e : RunError)
  | fatal (f : FatalFault)
  | unfinished
  deriving DecidableEq, Repr

/-- The report that a run state stands for (R77). -/
def RunState.report : RunState → RunReport
  | .running => .unfinished
  | .halted => .success
  | .error e => .error e
  | .fatal f => .fatal f

/-- `Run()`: repeat Step while `run` is `Running`, at most `fuel` times (R78). A Step from `Running` always answers a next
state; the other arm leaves the state as it is. -/
def runFor : Nat → State → State
  | 0, s => s
  | fuel + 1, s =>
    match step s with
    | .next t => runFor fuel t
    | .fault _ => s
    | .refused _ => s

/-! ## Dispatch (R80) -/

/-- What the host's `Dispatch(w)` returns (R79). -/
inductive HostReply where
  | continues
  | halts
  | error (e : RunError)
  | fatal (f : FatalFault)
  deriving DecidableEq, Repr

/-- The end of a host dispatch from `s`: no fetch, no advance, no top test; a `Halt` and an error leave the state as it
is, a fatal fault is recorded in `run` (R80, D18). -/
def hostReply (s : State) (r : HandlerResult) : Host.Outcome (HostReply × State) Fault Refusal :=
  match r with
  | .continues s' => .next (.continues, s')
  | .halts s' => .next (.halts, s')
  | .error e => .next (.error e, s)
  | .fatal f => .next (.fatal f, raiseFatal f s)
  | .refuses mnemonic => .refused (.placeholderRefused mnemonic)

/-- `Dispatch(w)` presented by the host (R80). After a fatal fault no operation is defined; otherwise `run` is not read. -/
def hostDispatch (w : Word) (s : State) : Host.Outcome (HostReply × State) Fault Refusal :=
  match s.run with
  | .fatal f => .fault (.afterFatal f)
  | _ => hostReply s (dispatchWord params w s)

/-! ## ReadRegisters (R24) -/

/-- `ReadRegisters()`: the eight register values; in every run state, until the state is discarded (R24, R136, D17). -/
def readRegisters (s : State) : Vector Word 8 := s.x

/-- One register read by the host through the checked accessor: an index outside 0..7 is fatal and is recorded in `run`
(R18, R122, D24; DEDUCED, log 10). It is answered in every run state, as `ReadRegisters` is (D17). DESIGN CHOICE, log 10,
unsafe: where `run` is already `Fatal(f)`, after which R80 and R126 define no operation, an index outside 0..7 is still
answered, and its `BadRegisterIndex` replaces the `f` that `run` held. -/
def hostReadRegister (i : Nat) (s : State) : Except FatalFault Word × State :=
  match getRegister i s with
  | .ok v => (.ok v, s)
  | .error f => (.error f, raiseFatal f s)

end Sys2Proof.Machine
end

