-- ==== Sys2Proof/Machine/Reader.lean ====
section
/-! DEFINITION. The Bit-Field Reader (30_encoding.md section 2), and the decoder written as the source writes it: a
cursor that reads the fields in order. The cursor is transient decode state, not part of State (R22). The machine decodes
by the fixed positions of Decode.lean, as R47 asks; that the two agree is a statement. -/

namespace Sys2Proof.Machine

/-- A cursor over one 16-bit word (R46). -/
structure BitReader where
  word : Word
  remaining : Nat
  deriving DecidableEq, Repr

/-- A fresh reader: 16 bits remain (R46). -/
def BitReader.ofWord (w : Word) : BitReader := { word := w, remaining := 16 }

/-- `read(n)`: the next `n` bits, MSB first, as an unsigned value (R46, R47); too wide a read is `ReaderOverrun` (R50). -/
def BitReader.read (n : Nat) (r : BitReader) : Except FatalFault (BitVec n × BitReader) :=
  if n ≤ r.remaining then
    .ok (r.word.extractLsb' (r.remaining - n) n, { r with remaining := r.remaining - n })
  else .error (.readerOverrun r.word)

/-- `skip(n)`: advances the cursor as `read(n)` does and returns no value (R48, R50). -/
def BitReader.skip (n : Nat) (r : BitReader) : Except FatalFault BitReader :=
  if n ≤ r.remaining then .ok { r with remaining := r.remaining - n }
  else .error (.readerOverrun r.word)

/-- `read_to_end()`: all remaining bits, and none remain (R49). -/
def BitReader.readToEnd (r : BitReader) : BitVec r.remaining × BitReader :=
  (r.word.extractLsb' 0 r.remaining, { r with remaining := 0 })

/-- A sequence of reads: the values, as unsigned numbers, and the reader after them (R47). -/
def BitReader.readAll : List Nat → BitReader → Except FatalFault (List Nat × BitReader)
  | [], r => .ok ([], r)
  | n :: rest, r => do
    let (v, r) ← r.read n
    let (vs, r) ← readAll rest r
    .ok (v.toNat :: vs, r)

/-- The operate format: `dest(3)`, `src1(3)`, `mode(1)`, then `imm(5)`, or `skip(2)` and `src2(3)` (R52). -/
def readOperate (immForm : RegIdx → RegIdx → BitVec 5 → Instr) (regForm : RegIdx → RegIdx → RegIdx → Instr)
    (r : BitReader) : Except FatalFault Instr := do
  let (dest, r) ← r.read 3
  let (src1, r) ← r.read 3
  let (mode, r) ← r.read 1
  if mode = 1#1 then
    let (imm5, _) ← r.read 5
    .ok (immForm dest.toFin src1.toFin imm5)
  else
    let r ← r.skip 2
    let (src2, _) ← r.read 3
    .ok (regForm dest.toFin src1.toFin src2.toFin)

/-- The NOT_BADPAD row of an illegal pad: by its number of leading ones (spec/opcode_table.json). -/
def badPadInstr (dest src : RegIdx) (pad : BitVec 6) : Instr :=
  if pad < 0b100000#6 then .notBadPad0 dest src pad
  else if pad < 0b110000#6 then .notBadPad10 dest src pad
  else if pad < 0b111000#6 then .notBadPad110 dest src pad
  else if pad < 0b111100#6 then .notBadPad1110 dest src pad
  else if pad < 0b111110#6 then .notBadPad11110 dest src pad
  else .notBadPad111110 dest src pad

/-- The NOT format: `dest(3)`, `src(3)`, `pad(6)` (R53). -/
def readNot (r : BitReader) : Except FatalFault Instr := do
  let (dest, r) ← r.read 3
  let (src, r) ← r.read 3
  let (pad, _) ← r.read 6
  if pad = 0b111111#6 then .ok (.not dest.toFin src.toFin)
  else .ok (badPadInstr dest.toFin src.toFin pad)

/-- The branch format: `n(1)`, `z(1)`, `p(1)`, `offset(9)` (R56). -/
def readBranch (r : BitReader) : Except FatalFault Instr := do
  let (n, r) ← r.read 1
  let (z, r) ← r.read 1
  let (p, r) ← r.read 1
  let (offset9, _) ← r.read 9
  .ok (.br (n == 1#1) (z == 1#1) (p == 1#1) offset9)

/-- The trap format: `pad(4)`, `trap_vector(8)` (R57). -/
def readTrap (r : BitReader) : Except FatalFault Instr := do
  let (_, r) ← r.read 4
  let (vector8, _) ← r.read 8
  .ok (.trap vector8)

/-- The decoder by the reader: the opcode is the first field, and its handler reads on from there (R51). A placeholder
reads nothing (R58); its raw bits are kept in the term only because the spec's own spelling of it has them (R65). -/
def decodeByReader (w : Word) : Except FatalFault Instr := do
  let (op, r) ← (BitReader.ofWord w).read 4
  match op.getLsbD 3, op.getLsbD 2, op.getLsbD 1, op.getLsbD 0 with
  | false, false, false, false => readBranch r
  | false, false, false, true => readOperate .addImm .addReg r
  | false, false, true, false => .ok (.ld (unusedField w))
  | false, false, true, true => .ok (.st (unusedField w))
  | false, true, false, false => .ok (.jsr (unusedField w))
  | false, true, false, true => readOperate .andImm .andReg r
  | false, true, true, false => .ok (.ldr (unusedField w))
  | false, true, true, true => .ok (.str (unusedField w))
  | true, false, false, false => .ok (.rti (unusedField w))
  | true, false, false, true => readNot r
  | true, false, true, false => .ok (.ldi (unusedField w))
  | true, false, true, true => .ok (.sti (unusedField w))
  | true, true, false, false => .ok (.jmpRet (unusedField w))
  | true, true, false, true => .ok (.rsv (unusedField w))
  | true, true, true, false => .ok (.lea (unusedField w))
  | true, true, true, true => readTrap r

end Sys2Proof.Machine
end

