-- ==== Sys2Proof/Safety.lean ====
section
/-! DEFINITION. What counts as a safe run and as a well-ended one, the invariant of the machine, and the words the
statements use for encodings and for what an instruction leaves unchanged. -/

namespace Sys2Proof.Machine

/-! ## Runs -/

/-- `n` Steps lead from `s` to `t`. -/
inductive StepsTo : Nat → State → State → Prop where
  | none (s : State) : StepsTo 0 s s
  | more {n : Nat} {s t u : State} (h : step s = .next t) (rest : StepsTo n t u) : StepsTo (n + 1) s u

/-- Some number of Steps leads from `s` to `t`. -/
def Reaches (s t : State) : Prop := ∃ n, StepsTo n s t

/-- A state as the host must make it before the first Step: created, then loaded once (R141 to R143). -/
def Loaded (s : State) : Prop :=
  ∃ (pc0 : Word) (words : List Word), words.length ≤ 65536 ∧ s = load pc0 words State.reset

/-- The run has ended in an outcome that a postcondition may speak of: `Halted`, or a reported error. A fatal fault is
never a final state (D10). -/
def Final (s : State) : Prop := s.run = .halted ∨ ∃ e, s.run = .error e

/-- No state that a run from `s` reaches has recorded a fatal fault. -/
def SafeFrom (s : State) : Prop := ∀ t, Reaches s t → ∀ f, t.run ≠ .fatal f

/-! ## The invariant -/

/-- The end of a run is explained by the word at `pc`, which is the instruction that ended it (R74, R129): `Halted` by the
top of the address space or by TRAP x25, an error by a TRAP with the recorded vector, a fatal fault by an opcode-1001
word with a bad pad. So no run records `InvalidOpcode`, `ReaderOverrun` or `BadRegisterIndex` (R122 to R124). -/
def EndExplained (s : State) : Prop :=
  match s.run with
  | .running => True
  | .halted => s.pc = 0xFFFF#16 ∨ decode s.fetch = .trap 0x25#8
  | .error e => ∃ v, v ≠ 0x25#8 ∧ decode s.fetch = .trap v ∧ e = .unsupportedTrap v
  | .fatal f => opcodeField s.fetch = 0b1001#4 ∧ padField s.fetch ≠ 0b111111#6 ∧ f = .badPadding s.fetch

/-- The invariant of the machine: memory in canonical form, and the end of the run explained. -/
def Inv (s : State) : Prop := Memory.wf s.mem ∧ EndExplained s

/-! ## Words and slices as the encoding rules write them -/

/-- The word of an illegal NOT as R60 writes it. -/
def illegalWord (d s : RegIdx) (t : BitVec 6) : Word :=
  0x9000#16 ||| (BitVec.ofNat 16 d.val <<< 9) ||| (BitVec.ofNat 16 s.val <<< 6) ||| t.setWidth 16

/-- The contiguous slices of `w` of the given widths, from `k` bits below the top downward: `w[15-k : 16-k-n]` and so on
(R47), as unsigned numbers. -/
def bitSlices (w : Word) : Nat → List Nat → List Nat
  | _, [] => []
  | k, n :: rest => w.toNat / 2 ^ (16 - k - n) % 2 ^ n :: bitSlices w (k + n) rest

/-! ## What an instruction leaves unchanged -/

/-- Every word of memory reads as before. -/
def SameMemory (s t : State) : Prop := ∀ a, Memory.read t.mem a = Memory.read s.mem a

/-- Every register but `dest` reads as before. -/
def SameRegsExcept (dest : RegIdx) (s t : State) : Prop := ∀ r, r ≠ dest → t.reg r = s.reg r

/-- Every register and the condition source are as before. -/
def SameRegs (s t : State) : Prop := (∀ r, t.reg r = s.reg r) ∧ t.cond = s.cond

/-- No error and no fault has been recorded: `run` is as before, or the loop has stopped. -/
def NoErrorRecorded (s t : State) : Prop := t.run = s.run ∨ t.run = .halted

/-- The end of a Step whose handler signalled `Continue` and left `target` in `pc`: at 0xFFFF the loop stops and `pc`
stays, elsewhere `pc` advances by one and `run` is as before (R72, R73). -/
def ContinuesAt (target : Word) (s t : State) : Prop :=
  if target = 0xFFFF#16 then t.pc = target ∧ t.run = .halted else t.pc = target + 1#16 ∧ t.run = s.run

end Sys2Proof.Machine
end

