-- ==== Sys2Proof/Certificates/Slice0/Obligations.lean ====
section
/-! DEFINITION. The statements for the provers. Each docstring names the rule or the section of spec/ it formalises; where
a statement rests on a choice that the spec marks as its own decision (D<n>) or on a log entry of the model, it says so. -/

open Sys2Proof Sys2Proof.Machine

/-! ## Decoding and encoding -/

/-- Decoding the encoding of any well-formed instruction gives it back, every field at every value (30_encoding.md
sections 3 to 6). -/
def Obligations.DecodeEncodeRoundTrip : Prop :=
  ∀ i : Instr, i.wf = true → decode (encode i) = i

/-- Encoding what a word decodes to gives a word of the same instruction that agrees with it in every bit that matters;
which bits do not matter rests on decisions D6 and D7 (30_encoding.md sections 3, 5 and 7). -/
def Obligations.EncodeDecodeKeepsCareBits : Prop :=
  ∀ w : Word, encode (decode w) &&& careMask w = w &&& careMask w ∧ decode (encode (decode w)) = decode w

/-- The don't-care bits (bits 4:3 of the register forms, 11:8 of TRAP, 11:0 of placeholder and reserved opcodes) never
change what an instruction does, under any choice of the parameters; decisions D6 and D7 (30_encoding.md section 7,
log 8). -/
def Obligations.DontCareBitsNeverMatter : Prop :=
  ∀ (w w' : Word) (s : State), w &&& careMask w = w' &&& careMask w →
    (∀ p, dispatchWord p w s = dispatchWord p w' s) ∧ exec (decode w) s = exec (decode w') s

/-- Every one of the 65536 words fits exactly one row of the opcode table, the row of the instruction it decodes to, and
no word is dispatched to `InvalidOpcode`; the spec marks this as derived (30_encoding.md section 7, 60_exceptions.md
section 1, D28). -/
def Obligations.EveryWordHasExactlyOneRow : Prop :=
  ∀ w : Word, opcodeTable.filter (fun r => r.fits w) = [(decode w).row] ∧
    ∀ p s c, dispatchWord p w s ≠ .error (.invalidOpcode c)

/-- Whatever a word decodes to is well-formed (30_encoding.md section 7). -/
def Obligations.DecodedIsWellFormed : Prop :=
  ∀ w : Word, (decode w).wf = true

/-- A few words written out from the spec's encodings decode to the instructions they stand for (30_encoding.md R67's
example, 95_test_vectors.md section 2). -/
def Obligations.SampleWordsDecode : Prop :=
  decode 0x1061#16 = .addImm 0 1 1#5 ∧ decode 0x105A#16 = .addReg 0 1 2 ∧ decode 0x5642#16 = .andReg 3 1 2 ∧
  decode 0x547F#16 = .andImm 2 1 31#5 ∧ decode 0x907F#16 = .not 0 1 ∧ decode 0x907E#16 = .notBadPad111110 0 1 62#6 ∧
  decode 0x0803#16 = .br true false false 3#9 ∧ decode 0xFF25#16 = .trap 0x25#8 ∧ decode 0x4FFF#16 = .jsr 0xFFF#12 ∧
  decode 0xD000#16 = .rsv 0#12

/-- R59 with the field positions of its formats, and R56: bits 15:12 select the handler; the opcodes 0001 and 0101 take
the register or the immediate form by bit 5; opcode 1001 is NOT when bits 5:0 are all ones and illegal otherwise; opcode
1111 halts when bits 7:0 are 0x25 and is an unsupported trap otherwise. -/
def Obligations.OpcodeMapAndFormats : Prop :=
  ∀ w : Word,
    (decode w).opcode = w.extractLsb' 12 4 ∧
    (w.extractLsb' 12 4 = 0b0000#4 →
      decode w = .br (w.getLsbD 11) (w.getLsbD 10) (w.getLsbD 9) (w.extractLsb' 0 9)) ∧
    (w.extractLsb' 12 4 = 0b0001#4 → w.getLsbD 5 = false →
      decode w = .addReg (w.extractLsb' 9 3).toFin (w.extractLsb' 6 3).toFin (w.extractLsb' 0 3).toFin) ∧
    (w.extractLsb' 12 4 = 0b0001#4 → w.getLsbD 5 = true →
      decode w = .addImm (w.extractLsb' 9 3).toFin (w.extractLsb' 6 3).toFin (w.extractLsb' 0 5)) ∧
    (w.extractLsb' 12 4 = 0b0101#4 → w.getLsbD 5 = false →
      decode w = .andReg (w.extractLsb' 9 3).toFin (w.extractLsb' 6 3).toFin (w.extractLsb' 0 3).toFin) ∧
    (w.extractLsb' 12 4 = 0b0101#4 → w.getLsbD 5 = true →
      decode w = .andImm (w.extractLsb' 9 3).toFin (w.extractLsb' 6 3).toFin (w.extractLsb' 0 5)) ∧
    (w.extractLsb' 12 4 = 0b1001#4 → w.extractLsb' 0 6 = 0b111111#6 →
      decode w = .not (w.extractLsb' 9 3).toFin (w.extractLsb' 6 3).toFin) ∧
    (w.extractLsb' 12 4 = 0b1001#4 → w.extractLsb' 0 6 ≠ 0b111111#6 →
      (decode w).row.mnemonic = "NOT_BADPAD" ∧ ∀ p s, dispatchWord p w s = .fatal (.badPadding w)) ∧
    (w.extractLsb' 12 4 = 0b1111#4 → decode w = .trap (w.extractLsb' 0 8) ∧
      ∀ p s, dispatchWord p w s =
        if w.extractLsb' 0 8 = 0x25#8 then .halts s else .error (.unsupportedTrap (w.extractLsb' 0 8))) ∧
    (w.extractLsb' 12 4 = 0b0010#4 → decode w = .ld (w.extractLsb' 0 12)) ∧
    (w.extractLsb' 12 4 = 0b0011#4 → decode w = .st (w.extractLsb' 0 12)) ∧
    (w.extractLsb' 12 4 = 0b0100#4 → decode w = .jsr (w.extractLsb' 0 12)) ∧
    (w.extractLsb' 12 4 = 0b0110#4 → decode w = .ldr (w.extractLsb' 0 12)) ∧
    (w.extractLsb' 12 4 = 0b0111#4 → decode w = .str (w.extractLsb' 0 12)) ∧
    (w.extractLsb' 12 4 = 0b1000#4 → decode w = .rti (w.extractLsb' 0 12)) ∧
    (w.extractLsb' 12 4 = 0b1010#4 → decode w = .ldi (w.extractLsb' 0 12)) ∧
    (w.extractLsb' 12 4 = 0b1011#4 → decode w = .sti (w.extractLsb' 0 12)) ∧
    (w.extractLsb' 12 4 = 0b1100#4 → decode w = .jmpRet (w.extractLsb' 0 12)) ∧
    (w.extractLsb' 12 4 = 0b1101#4 → decode w = .rsv (w.extractLsb' 0 12)) ∧
    (w.extractLsb' 12 4 = 0b1110#4 → decode w = .lea (w.extractLsb' 0 12))

/-- The words that decode to a NOT_BADPAD row are exactly `0x9000 | (d << 9) | (s << 6) | t` with `t ≠ 0x3F`, one word
for each of the 8 × 8 × 63 choices of `d`, `s`, `t`, and executing one records `BadPadding` of the word itself
(30_encoding.md section 7). -/
def Obligations.IllegalWordsAreExactlyBadPads : Prop :=
  (∀ w : Word, (decode w).row.mnemonic = "NOT_BADPAD" ↔ ∃ d s t, t ≠ 0x3F#6 ∧ w = illegalWord d s t) ∧
  (∀ d s t d' s' t', illegalWord d s t = illegalWord d' s' t' → d = d' ∧ s = s' ∧ t = t') ∧
  ∀ d src t s, t ≠ 0x3F#6 →
    exec (decode (illegalWord d src t)) s = .next { s with run := .fatal (.badPadding (illegalWord d src t)) }

/-! ## The Bit-Field Reader -/

/-- R46 and R47: from a fresh reader, whose cursor is at 16, reads of total width at most 16 return exactly the
contiguous slices of the word, MSB first, each in 0 to 2^n - 1, and each lowers the count of remaining bits by its
width. -/
def Obligations.ReaderReadsContiguousSlices : Prop :=
  ∀ (w : Word) (widths : List Nat), widths.sum ≤ 16 →
    (BitReader.ofWord w).readAll widths =
      .ok (bitSlices w 0 widths, { word := w, remaining := 16 - widths.sum })

/-- R48 and R50: `skip(n)` is `read(n)` without its value; either is `ReaderOverrun` of the reader's word when and only
when `n` is larger than the bits remaining; what the skipped bits hold does not change what is read after them; no decode
of a word reaches that fault. Also `read_to_end()` returns the remaining low-order bits and leaves none. -/
def Obligations.ReaderPreconditions : Prop :=
  (∀ (n : Nat) (r : BitReader), r.skip n = (r.read n).map (fun vr => vr.2)) ∧
  (∀ (n : Nat) (r : BitReader), r.remaining < n →
    r.read n = .error (.readerOverrun r.word) ∧ r.skip n = .error (.readerOverrun r.word)) ∧
  (∀ (n : Nat) (r : BitReader), n ≤ r.remaining →
    ∃ v, r.read n = .ok (v, { word := r.word, remaining := r.remaining - n }) ∧
      r.skip n = .ok { word := r.word, remaining := r.remaining - n }) ∧
  (∀ (n k m : Nat) (w w' : Word), m ≤ k → w.toNat % 2 ^ k = w'.toNat % 2 ^ k →
    ∃ v r r', (BitReader.mk w (k + n)).skip n >>= BitReader.read m = .ok (v, r) ∧
      (BitReader.mk w' (k + n)).skip n >>= BitReader.read m = .ok (v, r')) ∧
  (∀ (w : Word) (f : FatalFault), decodeByReader w ≠ .error f) ∧
  (∀ r : BitReader, r.readToEnd.1.toNat = r.word.toNat % 2 ^ r.remaining ∧ r.readToEnd.2.remaining = 0)

/-- The decoder that reads the fields in order through the Bit-Field Reader, as the source does, and the decoder by fixed
bit positions are the same function, on every word (30_encoding.md sections 2, 3 and 5). -/
def Obligations.ReaderDecoderAgrees : Prop :=
  ∀ w : Word, decodeByReader w = .ok (decode w)

/-! ## Registers, the condition source, the sign class -/

/-- R13: a register write stores the value and sets the condition source, and changes nothing else; and it is the only
way an instruction changes a register or the condition source. -/
def Obligations.RegisterWriteIsTheOnlyRegisterChange : Prop :=
  (∀ (s : State) (i : RegIdx) (v : Word),
    (s.writeReg i v).reg i = v ∧ SameRegsExcept i s (s.writeReg i v) ∧ (s.writeReg i v).cond = i ∧
    (s.writeReg i v).pc = s.pc ∧ (s.writeReg i v).mem = s.mem ∧ (s.writeReg i v).run = s.run) ∧
  ∀ (i : Instr) (s t : State), exec i s = .next t →
    (t.x = s.x ∧ t.cond = s.cond) ∨ ∃ r v, t.x = (s.writeReg r v).x ∧ t.cond = r

/-- ADD, AND and NOT each write exactly one register, their destination; every other instruction writes no register and
leaves the condition source; the spec marks this as derived (10_state.md section 2). The other instructions include the
six NOT_BADPAD rows, for which it rests on the pad check coming before the write: decision D8 (60_exceptions.md
section 1, log 2). -/
def Obligations.OnlyAluInstructionsWriteRegisters : Prop :=
  ∀ (i : Instr) (s t : State), i.wf = true → exec i s = .next t →
    match i with
    | .addReg dest _ _ | .addImm dest _ _ | .andReg dest _ _ | .andImm dest _ _ | .not dest _ =>
      t.cond = dest ∧ SameRegsExcept dest s t
    | _ => SameRegs s t

/-- The condition a branch would test is, after an instruction that writes a register, the class of the value written,
and after any other instruction what it was before; the spec marks this as derived (10_state.md section 3). For the six
NOT_BADPAD rows it rests on the pad check coming before the write: decision D8 (60_exceptions.md section 1, log 2). -/
def Obligations.ConditionClassIsThatOfTheLastWrite : Prop :=
  ∀ (i : Instr) (s t : State), i.wf = true → exec i s = .next t →
    conditionClass t = match writtenReg i with
      | some dest => cls (t.reg dest)
      | none => conditionClass s

/-- R16: `Neg` when bit 15 is 1, that is, when the two's complement value is negative; `Zero` when the word is 0; `Pos`
otherwise, that is, when the two's complement value is positive; and exactly one class holds. -/
def Obligations.SignClassifier : Prop :=
  ∀ v : Word,
    (cls v = .neg ↔ v.getLsbD 15 = true) ∧ (cls v = .neg ↔ v.toInt < 0) ∧
    (cls v = .zero ↔ v = 0x0000#16) ∧
    (cls v = .pos ↔ v.getLsbD 15 = false ∧ v ≠ 0x0000#16) ∧ (cls v = .pos ↔ 0 < v.toInt)

/-- R96: the branch predicate, on the class of the register that the condition source names; `nzp = 000` and `nzp = 111`
both always branch. -/
def Obligations.BranchPredicate : Prop :=
  (∀ (n z p : Bool) (c : SignClass), taken n z p c = true ↔
    (n = true ∧ c = .neg) ∨ (z = true ∧ c = .zero) ∨ (p = true ∧ c = .pos) ∨ (n = false ∧ z = false ∧ p = false)) ∧
  (∀ c : SignClass, taken false false false c = true ∧ taken true true true c = true) ∧
  ∀ (q : Params) (n z p : Bool) (offset9 : BitVec 9) (s : State),
    handle q (.br n z p offset9) s =
      if taken n z p (cls (s.reg s.cond)) = true then .continues { s with pc := s.pc + branchOffset q offset9 }
      else .continues s

/-- A register accessor given an index outside 0..7 answers `BadRegisterIndex`, inside 0..7 it reads or writes that
register; a host read records the fault in `run`. The class of this failure is decision D24, its recording log 10
(10_state.md section 2, 60_exceptions.md section 1). That it does so in every run state, so that it replaces a fatal fault
recorded before, is the model's own choice, log 10. -/
def Obligations.RegisterAccessorsFailFast : Prop :=
  ∀ (s : State) (v : Word) (n : Nat),
    (∀ i : RegIdx, n = i.val → getRegister n s = .ok (s.reg i) ∧ setRegister n v s = .ok (s.writeReg i v) ∧
      hostReadRegister n s = (.ok (s.reg i), s)) ∧
    (8 ≤ n → getRegister n s = .error (.badRegisterIndex n) ∧ setRegister n v s = .error (.badRegisterIndex n) ∧
      hostReadRegister n s = (.error (.badRegisterIndex n), { s with run := .fatal (.badRegisterIndex n) }))

/-! ## Memory -/

/-- A memory write sets the word at its address and changes nothing else, and no instruction uses it (20_memory.md
section 2). The canonical form, which is the premise and which the write keeps, is the model's own choice, log 1. -/
def Obligations.MemoryWriteThenRead : Prop :=
  (∀ (s : State) (a v : Word), Memory.wf s.mem →
    Memory.read (s.writeMem a v).mem a = v ∧
    (∀ b, b ≠ a → Memory.read (s.writeMem a v).mem b = Memory.read s.mem b) ∧
    (s.writeMem a v).x = s.x ∧ (s.writeMem a v).pc = s.pc ∧ (s.writeMem a v).cond = s.cond ∧
    (s.writeMem a v).run = s.run ∧ Memory.wf (s.writeMem a v).mem) ∧
  ∀ (i : Instr) (s t : State), exec i s = .next t → t.mem = s.mem

/-- R35: no instruction writes memory, so memory is constant from the first Step to the end of the run. -/
def Obligations.NoInstructionWritesMemory : Prop :=
  (∀ (i : Instr) (s t : State), exec i s = .next t → t.mem = s.mem) ∧
  (∀ s t : State, step s = .next t → t.mem = s.mem) ∧
  (∀ s t : State, Reaches s t → t.mem = s.mem)

/-- No instruction reads a data word: with any other memory contents it does the same to every other piece of state and
leaves those contents as they are; the spec marks this as derived (20_memory.md section 2). -/
def Obligations.InstructionsReadNoMemory : Prop :=
  ∀ (i : Instr) (s t : State) (m : Memory), exec i s = .next t →
    exec i { s with mem := m } = .next { t with mem := m }

/-! ## The ALU instructions -/

/-- R85: ADD, register form: the words it has, its result modulo 2^16, the condition source, and its frame. It completes
from every state. -/
def Obligations.AddRegisterForm : Prop :=
  (∀ w : Word, w &&& 0xF020#16 = 0x1000#16 →
    decode w = .addReg (w.extractLsb' 9 3).toFin (w.extractLsb' 6 3).toFin (w.extractLsb' 0 3).toFin) ∧
  ∀ (dest src1 src2 : RegIdx) (s : State), ∃ t, exec (.addReg dest src1 src2) s = .next t ∧
    t.reg dest = s.reg src1 + s.reg src2 ∧
    (t.reg dest).toNat = ((s.reg src1).toNat + (s.reg src2).toNat) % 65536 ∧
    t.cond = dest ∧ conditionClass t = cls (s.reg src1 + s.reg src2) ∧
    SameRegsExcept dest s t ∧ SameMemory s t ∧ NoErrorRecorded s t

/-- R86 and R54: ADD, immediate form, with the zero-extended immediate 0 to 31. It completes from every state. -/
def Obligations.AddImmediateForm : Prop :=
  (∀ w : Word, w &&& 0xF020#16 = 0x1020#16 →
    decode w = .addImm (w.extractLsb' 9 3).toFin (w.extractLsb' 6 3).toFin (w.extractLsb' 0 5)) ∧
  (∀ imm5 : BitVec 5, (immOperand params imm5).toNat = imm5.toNat ∧ imm5.toNat ≤ 31 ∧
    0 ≤ (immOperand params imm5).toInt) ∧
  ∀ (dest src1 : RegIdx) (imm5 : BitVec 5) (s : State), ∃ t, exec (.addImm dest src1 imm5) s = .next t ∧
    t.reg dest = s.reg src1 + imm5.setWidth 16 ∧
    (t.reg dest).toNat = ((s.reg src1).toNat + imm5.toNat) % 65536 ∧
    t.cond = dest ∧ conditionClass t = cls (s.reg src1 + imm5.setWidth 16) ∧
    SameRegsExcept dest s t ∧ SameMemory s t ∧ NoErrorRecorded s t

/-- R87: AND, register form: the words it has, its result, the condition source, and its frame. It completes from every
state. -/
def Obligations.AndRegisterForm : Prop :=
  (∀ w : Word, w &&& 0xF020#16 = 0x5000#16 →
    decode w = .andReg (w.extractLsb' 9 3).toFin (w.extractLsb' 6 3).toFin (w.extractLsb' 0 3).toFin) ∧
  ∀ (dest src1 src2 : RegIdx) (s : State), ∃ t, exec (.andReg dest src1 src2) s = .next t ∧
    t.reg dest = s.reg src1 &&& s.reg src2 ∧
    t.cond = dest ∧ conditionClass t = cls (s.reg src1 &&& s.reg src2) ∧
    SameRegsExcept dest s t ∧ SameMemory s t ∧ NoErrorRecorded s t

/-- R88: AND, immediate form: bits 15:5 of the result are 0, so it is at most 0x001F and never `Neg`. It completes from
every state. -/
def Obligations.AndImmediateForm : Prop :=
  (∀ w : Word, w &&& 0xF020#16 = 0x5020#16 →
    decode w = .andImm (w.extractLsb' 9 3).toFin (w.extractLsb' 6 3).toFin (w.extractLsb' 0 5)) ∧
  ∀ (dest src1 : RegIdx) (imm5 : BitVec 5) (s : State), ∃ t, exec (.andImm dest src1 imm5) s = .next t ∧
    t.reg dest = s.reg src1 &&& imm5.setWidth 16 ∧
    (t.reg dest).toNat ≤ 0x001F ∧ t.cond = dest ∧ conditionClass t = cls (s.reg src1 &&& imm5.setWidth 16) ∧
    conditionClass t ≠ .neg ∧
    SameRegsExcept dest s t ∧ SameMemory s t ∧ NoErrorRecorded s t

/-- NOT with the all-ones pad: bitwise complement of the source as it was, the condition source, and its frame. It
completes from every state (41_alu.md section 3; that the pad check comes first is decision D8). -/
def Obligations.NotComplements : Prop :=
  (∀ w : Word, w &&& 0xF03F#16 = 0x903F#16 → decode w = .not (w.extractLsb' 9 3).toFin (w.extractLsb' 6 3).toFin) ∧
  ∀ (dest src : RegIdx) (s : State), ∃ t, exec (.not dest src) s = .next t ∧
    (∀ k < 16, (t.reg dest).getLsbD k = !(s.reg src).getLsbD k) ∧
    t.cond = dest ∧ conditionClass t = cls (t.reg dest) ∧
    SameRegsExcept dest s t ∧ SameMemory s t ∧ NoErrorRecorded s t

/-- R121: each of the six NOT_BADPAD rows records the fatal fault `BadPadding` of its instruction word in `run`, from
every state, and it is not retried: no Step follows. -/
def Obligations.BadPaddingRecordsTheWord : Prop :=
  (∀ (w : Word) (s : State), w.extractLsb' 12 4 = 0b1001#4 → w.extractLsb' 0 6 ≠ 0b111111#6 →
    ∃ t, exec (decode w) s = .next t ∧ t.run = .fatal (.badPadding w) ∧ ∀ u, step t ≠ .next u) ∧
  ∀ (dest src : RegIdx) (pad : BitVec 6) (s : State),
    ∀ i ∈ [Instr.notBadPad0 dest src pad, .notBadPad10 dest src pad, .notBadPad110 dest src pad,
      .notBadPad1110 dest src pad, .notBadPad11110 dest src pad, .notBadPad111110 dest src pad],
      i.wf = true → ∃ t, exec i s = .next t ∧ t.run = .fatal (.badPadding (encode i)) ∧ ∀ u, step t ≠ .next u

/-- A NOT with a bad pad writes nothing but `run`: registers, condition source, `pc` and memory are as before; that the
pad check precedes the write is decision D8 (60_exceptions.md section 1, 41_alu.md section 3, log 2). -/
def Obligations.BadPaddingWritesNothing : Prop :=
  ∀ (dest src : RegIdx) (pad : BitVec 6) (s : State),
    ∀ i ∈ [Instr.notBadPad0 dest src pad, .notBadPad10 dest src pad, .notBadPad110 dest src pad,
      .notBadPad1110 dest src pad, .notBadPad11110 dest src pad, .notBadPad111110 dest src pad],
      i.wf = true → exec i s = .next { s with run := .fatal (.badPadding (encode i)) }

/-! ## TRAP and BR -/

/-- R7 and R120: vector 0x25 halts; every other vector records `UnsupportedTrap` with the vector, the run ends with that
error reported, and nothing but `run` changes. It completes from every state. -/
def Obligations.TrapHaltsOrReports : Prop :=
  ∀ (vector8 : BitVec 8) (s : State), ∃ t, exec (.trap vector8) s = .next t ∧
    (vector8 = 0x25#8 → t.run = .halted ∧ t.run.report = .success) ∧
    (vector8 ≠ 0x25#8 → t.run = .error (.unsupportedTrap vector8) ∧ t.run.report = .error (.unsupportedTrap vector8)) ∧
    (∀ u, step t ≠ .next u) ∧ SameRegs s t ∧ t.pc = s.pc ∧ SameMemory s t

/-- BR: a taken branch adds its zero-extended offset to its own address, then the Step's end applies; an untaken one goes
on to the next word; no register, condition source or memory word changes. It completes from every state. The
zero-extension is decision D4 and the stop at 0xFFFF decision D3 (42_control.md section 1, 40_cycle.md sections 2
and 3). -/
def Obligations.BranchAddsItsOffset : Prop :=
  ∀ (n z p : Bool) (offset9 : BitVec 9) (s : State), ∃ t, exec (.br n z p offset9) s = .next t ∧
    ContinuesAt
      (if taken n z p (conditionClass s) = true then s.pc + BitVec.ofNat 16 offset9.toNat else s.pc) s t ∧
    SameRegs s t ∧ SameMemory s t

/-- BR right after an instruction that wrote a register tests the value just written; the spec marks this as derived
(70_reset_and_hazards.md section 3), and the offset and the stop rest on D4 and D3. -/
def Obligations.BranchAfterWriteTestsTheValue : Prop :=
  ∀ (s t : State) (dest : RegIdx) (n z p : Bool) (offset9 : BitVec 9),
    step s = .next t → writtenReg (decode s.fetch) = some dest → t.run = .running →
    decode t.fetch = .br n z p offset9 →
    ∃ u, step t = .next u ∧
      ContinuesAt (if taken n z p (cls (t.reg dest)) = true then t.pc + BitVec.ofNat 16 offset9.toNat else t.pc) t u

/-! ## Placeholders and the reserved opcode -/

/-- R106 to R115: each of the ten placeholder opcodes, on every word that has it, signals `Continue` and writes nothing;
`pc` advances by one. Each completes from every state (what happens at 0xFFFF is `ExecFollowsDispatch`). -/
def Obligations.PlaceholdersAreNoOps : Prop :=
  (∀ w : Word,
    (w &&& 0xF000#16 = 0xC000#16 → ∃ u, decode w = .jmpRet u) ∧ (w &&& 0xF000#16 = 0x4000#16 → ∃ u, decode w = .jsr u) ∧
    (w &&& 0xF000#16 = 0x2000#16 → ∃ u, decode w = .ld u) ∧ (w &&& 0xF000#16 = 0xA000#16 → ∃ u, decode w = .ldi u) ∧
    (w &&& 0xF000#16 = 0x6000#16 → ∃ u, decode w = .ldr u) ∧ (w &&& 0xF000#16 = 0xE000#16 → ∃ u, decode w = .lea u) ∧
    (w &&& 0xF000#16 = 0x8000#16 → ∃ u, decode w = .rti u) ∧ (w &&& 0xF000#16 = 0x3000#16 → ∃ u, decode w = .st u) ∧
    (w &&& 0xF000#16 = 0xB000#16 → ∃ u, decode w = .sti u) ∧ (w &&& 0xF000#16 = 0x7000#16 → ∃ u, decode w = .str u)) ∧
  ∀ (u : BitVec 12) (s : State),
    ∀ i ∈ [Instr.jmpRet u, .jsr u, .ld u, .ldi u, .ldr u, .lea u, .rti u, .st u, .sti u, .str u],
      handle params i s = .continues s ∧
      ∃ t, exec i s = .next t ∧ SameRegs s t ∧ SameMemory s t ∧ NoErrorRecorded s t ∧
        (s.pc ≠ 0xFFFF#16 → t.pc = s.pc + 1#16 ∧ t.run = s.run)

/-- R61: every word with opcode 1101 executes as a no-op and raises nothing, under every choice of the parameters. It
completes from every state. -/
def Obligations.ReservedOpcodeIsNoOp : Prop :=
  (∀ w : Word, w.extractLsb' 12 4 = 0b1101#4 → ∃ u, decode w = .rsv u) ∧
  (∀ (q : Params) (u : BitVec 12) (s : State), handle q (.rsv u) s = .continues s) ∧
  ∀ (u : BitVec 12) (s : State), ∃ t, exec (.rsv u) s = .next t ∧ SameRegs s t ∧ SameMemory s t ∧
    NoErrorRecorded s t ∧ (s.pc ≠ 0xFFFF#16 → t.pc = s.pc + 1#16 ∧ t.run = s.run)

/-! ## The Step -/

/-- What follows dispatch, for every instruction and state: after `Continue` the loop stops if the handler left `pc` at
0xFFFF and advances `pc` by one otherwise; after `Halt` it stops; an error or a fault is recorded; nothing else changes
(40_cycle.md section 2; the value 0xFFFF and the place of the test are decision D3). -/
def Obligations.ExecFollowsDispatch : Prop :=
  ∀ (i : Instr) (s : State), exec i s =
    match handle params i s with
    | .continues s' =>
      .next (if s'.pc = 0xFFFF#16 then { s' with run := .halted } else { s' with pc := s'.pc + 1#16 })
    | .halts s' => .next { s' with run := .halted }
    | .error e => .next { s with run := .error e }
    | .fatal f => .next { s with run := .fatal f }
    | .refuses m => .refused (.placeholderRefused m)

/-- A Step from `Running` is the instruction that the word at `pc` decodes to, and nothing is added around it
(40_cycle.md section 2). -/
def Obligations.StepRunsTheDecodedInstruction : Prop :=
  ∀ (s : State) (i : Instr), s.run = .running → decode (Memory.read s.mem s.pc) = i → step s = exec i s

/-- R75: from `Running` the Step produces exactly one next state. -/
def Obligations.StepIsTotalAndDeterministic : Prop :=
  ∀ s : State, s.run = .running → ∃ t, step s = .next t ∧ ∀ u, step s = .next u → u = t

/-- When `run` is not `Running` there is no Step; decision D9, and the model's answer is the fault `noStepEnabled` of
log 3 (40_cycle.md section 2). -/
def Obligations.NoStepAfterTheRunIsOver : Prop :=
  ∀ s : State, s.run ≠ .running → step s = .fault (.noStepEnabled s.run)

/-- No instruction ends in a fault or a refusal of the model: each answers a next state from every state (40_cycle.md
sections 1 and 2). -/
def Obligations.ExecAlwaysAnswersNext : Prop :=
  ∀ (i : Instr) (s : State), ∃ t, exec i s = .next t

/-- A Step that ends in an error or a fault writes `run` and nothing else, so `pc` is the failing instruction's address;
the spec marks this as derived (40_cycle.md section 2, 60_exceptions.md sections 1 and 4, D8). -/
def Obligations.ErrorsArePrecise : Prop :=
  ∀ s t : State, step s = .next t → ((∃ e, t.run = .error e) ∨ ∃ f, t.run = .fatal f) →
    t = { s with run := t.run }

/-- Only a TRAP with a vector other than 0x25 records an error, only a NOT with a bad pad records a fault, each with its
own recorded value; the spec marks this as derived (60_exceptions.md sections 1 and 3). -/
def Obligations.OnlyTrapsAndBadPadsRaise : Prop :=
  ∀ s t : State, step s = .next t →
    (∀ e, t.run = .error e → ∃ v, v ≠ 0x25#8 ∧ decode s.fetch = .trap v ∧ e = .unsupportedTrap v) ∧
    (∀ f, t.run = .fatal f → (decode s.fetch).row.mnemonic = "NOT_BADPAD" ∧ f = .badPadding s.fetch)

/-- The next-`pc` unit: a Step that goes on takes `pc + 1`, or, if it is a taken BR, the branch sum plus one; a Step that
ends the run leaves `pc`, or, if it is a taken BR, leaves it at the sum 0xFFFF. The spec marks this as derived, and the
offset and the stop rest on D4 and D3 (40_cycle.md section 3). -/
def Obligations.NextPcCandidates : Prop :=
  ∀ s t : State, step s = .next t →
    (t.run = .running → t.pc = s.pc + 1#16 ∨
      ∃ n z p off, decode s.fetch = .br n z p off ∧ taken n z p (conditionClass s) = true ∧
        t.pc = s.pc + BitVec.ofNat 16 off.toNat + 1#16) ∧
    (t.run ≠ .running → t.pc = s.pc ∨
      ∃ n z p off, decode s.fetch = .br n z p off ∧ taken n z p (conditionClass s) = true ∧
        t.pc = s.pc + BitVec.ofNat 16 off.toNat ∧ t.pc = 0xFFFF#16 ∧ t.run = .halted)

/-! ## Runs -/

/-- Running repeats Step while `run` is `Running`, and gives the state that stepping one Step at a time gives; the report
tells the outcomes apart (40_cycle.md section 4). The fuel, and that more of it changes nothing once the run is over, is
the model's own choice after decision D23, log 12. -/
def Obligations.RunEqualsStepping : Prop :=
  (∀ (n : Nat) (s t : State), StepsTo n s t → runFor n s = t) ∧
  (∀ (n : Nat) (s : State), ∃ k, k ≤ n ∧ StepsTo k s (runFor n s) ∧ (k < n → (runFor n s).run ≠ .running)) ∧
  (∀ (n m : Nat) (s t : State), StepsTo n s t → t.run ≠ .running → n ≤ m → runFor m s = t) ∧
  ∀ r : RunState, (r.report = .success ↔ r = .halted) ∧ (∀ e, r.report = .error e ↔ r = .error e) ∧
    (∀ f, r.report = .fatal f ↔ r = .fatal f)

/-- R23: the created state. -/
def Obligations.ResetState : Prop :=
  (∀ r, State.reset.reg r = 0x0000#16) ∧ (∀ a, Memory.read State.reset.mem a = 0x0000#16) ∧
  State.reset.pc = 0x0000#16 ∧ State.reset.cond = 0 ∧ State.reset.run = .running ∧
  conditionClass State.reset = .zero

/-- The invariant holds in the created state (10_state.md section 8; the canonical form is the model's own, log 1). -/
def Obligations.ResetSatisfiesInvariant : Prop :=
  Inv State.reset

/-- Every Step keeps the invariant: memory stays canonical, and an ended run is explained by the word at `pc`, from every
state that meets it (40_cycle.md section 2, 60_exceptions.md sections 1, 3 and 4; the stop at 0xFFFF is D3, the order of the pad
check D8, the canonical form the model's own, logs 7, 2 and 1). -/
def Obligations.StepKeepsInvariant : Prop :=
  ∀ s t : State, Inv s → step s = .next t → Inv t

/-- Every state that a run reaches from a loaded state meets the invariant (70_reset_and_hazards.md sections 1 and 2; the load's wrap and bound are D13, and the invariant rests on D3, D8 and the
model's own canonical form, logs 9, 7, 2 and 1). -/
def Obligations.LoadedRunsKeepInvariant : Prop :=
  ∀ s t : State, Loaded s → Reaches s t → Inv t

/-- A running machine whose memory holds no illegal NOT word never records a fatal fault, however long it runs
(30_encoding.md section 7, 60_exceptions.md section 1). -/
def Obligations.NoBadPadMeansNoFatal : Prop :=
  ∀ s : State, s.run = .running →
    (∀ a, opcodeField (Memory.read s.mem a) = 0b1001#4 → padField (Memory.read s.mem a) = 0b111111#6) →
    SafeFrom s

/-! ## The host's operations -/

/-- Load sets `pc` to the image's first word and writes the rest to consecutive addresses from there, modulo 2^16; every
other word, the registers and the condition source are untouched. An empty image and one with more than 65536 words are no
load. The wrap and the bound are decision D13 (70_reset_and_hazards.md section 1, log 9); the premise that memory is in
canonical form is the model's own, log 1. -/
def Obligations.LoadWritesTheImage : Prop :=
  (∀ s, loadImage [] s = none) ∧
  (∀ pc0 words s, 65536 < words.length → loadImage (pc0 :: words) s = none) ∧
  ∀ (pc0 : Word) (words : List Word) (s : State), Memory.wf s.mem → words.length ≤ 65536 →
    ∃ t, loadImage (pc0 :: words) s = some t ∧ t.pc = pc0 ∧
      (∀ (k : Nat) (h : k < words.length), Memory.read t.mem (pc0 + BitVec.ofNat 16 k) = words[k]) ∧
      (∀ a, (∀ k < words.length, a ≠ pc0 + BitVec.ofNat 16 k) → Memory.read t.mem a = Memory.read s.mem a) ∧
      t.x = s.x ∧ t.cond = s.cond ∧ t.run = s.run

/-- The image file is big-endian: the bytes that write each word's bits 15:8 before its bits 7:0 load as those words, and
an odd number of bytes is no image (20_memory.md section 3; the odd case is log 9). -/
def Obligations.ImageBytesAreBigEndian : Prop :=
  (∀ (image : List Word) (s : State),
    loadBytes (image.flatMap (fun w => [w.extractLsb' 8 8, w.extractLsb' 0 8])) s = loadImage image s) ∧
  ∀ (bytes : List Byte) (s : State), bytes.length % 2 = 1 → loadBytes bytes s = none

/-- The host's Dispatch runs the handler on the word alone: no fetch, no advance, no top-of-space test; `Halt` and an error
leave the state as it is and are returned; a fatal fault is recorded, and after one no operation is defined. Decision D18
(40_cycle.md section 5). -/
def Obligations.HostDispatchRunsTheHandlerOnly : Prop :=
  ∀ (w : Word) (s : State),
    (∀ f, s.run = .fatal f → hostDispatch w s = .fault (.afterFatal f)) ∧
    ((∀ f, s.run ≠ .fatal f) → ∃ r t, hostDispatch w s = .next (r, t) ∧
      match dispatchWord params w s with
      | .continues s' => r = .continues ∧ t = s' ∧ t.run = s.run ∧
        (t.pc = s.pc ∨ ∃ n z p off, decode w = .br n z p off ∧ t.pc = s.pc + BitVec.ofNat 16 off.toNat)
      | .halts _ => r = .halts ∧ t = s
      | .error e => r = .error e ∧ t = s
      | .fatal f => r = .fatal f ∧ t = { s with run := .fatal f }
      | .refuses _ => False)

/-- Every operation of the CORE and of its host keeps memory in canonical form (20_memory.md sections 2 and 5; the form is
the model's own, log 1). -/
def Obligations.EveryOperationKeepsMemoryCanonical : Prop :=
  ∀ s : State, Memory.wf s.mem →
    (∀ t, step s = .next t → Memory.wf t.mem) ∧
    (∀ pc0 words, Memory.wf (load pc0 words s).mem) ∧
    (∀ w r t, hostDispatch w s = .next (r, t) → Memory.wf t.mem) ∧
    (∀ i, Memory.wf (hostReadRegister i s).2.mem) ∧
    (∀ i v t, setRegister i v s = .ok t → Memory.wf t.mem) ∧
    (∀ nbits w, Memory.wf (s.withFetchWord nbits w).mem)

/-! ## The parameters and the second representation of the flags -/

/-- The machine that stores explicit flags, recomputed on every register write, and the machine that stores the index of
the last written register take the same Steps, and the flags stay the class of that register; the spec marks this as
derived, the choice of the index is D25 (10_state.md section 3). -/
def Obligations.ExplicitFlagsAgree : Prop :=
  FlagState.reset.flag = conditionClass FlagState.reset.core ∧
  ∀ f : FlagState, f.flag = conditionClass f.core →
    (∀ t, step f.core = .next t → ∃ g, f.step = .next g ∧ g.core = t ∧ g.flag = conditionClass g.core) ∧
    (∀ r, step f.core = .fault r ↔ f.step = .fault r)

/-- The two values of each extension parameter differ only in fields whose top bit is set; sign-extension would make an
offset of 256 or more branch backward by 512 less it (92_eei_decisions.md D4 and D5, logs 4 and 5). -/
def Obligations.ExtensionChoiceAgreesOnSmallFields : Prop :=
  (∀ n z p (off : BitVec 9) s, off.toNat < 256 →
    execWith { params with off9Extension := .sext } (.br n z p off) s = exec (.br n z p off) s) ∧
  (∀ dest src1 (k : BitVec 5) s, k.toNat < 16 →
    execWith { params with imm5Extension := .sext } (.addImm dest src1 k) s = exec (.addImm dest src1 k) s ∧
    execWith { params with imm5Extension := .sext } (.andImm dest src1 k) s = exec (.andImm dest src1 k) s) ∧
  ∀ off : BitVec 9, 256 ≤ off.toNat →
    branchOffset { params with off9Extension := .sext } off = 0#16 - BitVec.ofNat 16 (512 - off.toNat)

/-- Under `PlaceholderPolicy = Refuse` exactly the ten placeholder opcodes are refused, by name, and every other
instruction, the reserved opcode among them, does what it does under the normative policy; decision D11 (43_placeholders.md
sections 1 and 3, 90_conflicts.md C11, log 6). -/
def Obligations.RefusePolicyRefusesThePlaceholders : Prop :=
  ∀ (i : Instr) (s : State),
    ((∃ u, i ∈ [Instr.jmpRet u, .jsr u, .ld u, .ldi u, .ldr u, .lea u, .rti u, .st u, .sti u, .str u]) →
      execWith { params with placeholderPolicy := .refuse } i s = .refused (.placeholderRefused i.row.mnemonic)) ∧
    ((∀ u, i ∉ [Instr.jmpRet u, .jsr u, .ld u, .ldi u, .ldr u, .lea u, .rti u, .st u, .sti u, .str u]) →
      execWith { params with placeholderPolicy := .refuse } i s = exec i s)
end

