-- ==== Sys2Proof/Laws/Encoding.lean ====
section
/-! SUPPORT. The bits of a word of each format, and the fields read back from it. -/

namespace Sys2Proof

/-! ## Bits -/

theorem placeholderWord_bit (op : BitVec 4) (unused : BitVec 12) (k : Nat) :
    (placeholderWord op unused).getLsbD k = if k < 12 then unused.getLsbD k else op.getLsbD (k - 12) :=
  BitVec.getLsbD_append

theorem trapWord_bit (vector8 : BitVec 8) (k : Nat) :
    (trapWord vector8).getLsbD k = if k < 8 then vector8.getLsbD k else (0xF0#8).getLsbD (k - 8) :=
  BitVec.getLsbD_append

theorem branchWord_bit (n z p : Bool) (offset9 : BitVec 9) (k : Nat) :
    (branchWord n z p offset9).getLsbD k =
      if k < 9 then offset9.getLsbD k
      else if k = 9 then p else if k = 10 then z else if k = 11 then n else false := by
  refine BitVec.getLsbD_append.trans ?_
  rw [BitVec.getLsbD_append, BitVec.getLsbD_append, BitVec.getLsbD_append]
  by_cases h9 : k < 9
  · simp [h9]
  · obtain ⟨j, rfl⟩ : ∃ j, k = 9 + j := ⟨k - 9, by omega⟩
    rcases j with _ | _ | _ | j
    · simp
    · simp
    · simp
    · have h0 : 9 + (j + 1 + 1 + 1) - 9 = j + 3 := by omega
      have h1 : ¬ 9 + (j + 1 + 1 + 1) = 10 := by omega
      have h2 : ¬ 9 + (j + 1 + 1 + 1) = 11 := by omega
      simp [h0, h1, h2]

theorem notWord_bit (dest src : RegIdx) (pad : BitVec 6) (k : Nat) :
    (notWord dest src pad).getLsbD k =
      if k < 6 then pad.getLsbD k else if k < 9 then (regBits src).getLsbD (k - 6)
      else if k < 12 then (regBits dest).getLsbD (k - 9) else (0b1001#4).getLsbD (k - 12) := by
  refine BitVec.getLsbD_append.trans ?_
  rw [BitVec.getLsbD_append, BitVec.getLsbD_append, show k - 6 - 3 = k - 9 by omega, show k - 9 - 3 = k - 12 by omega]
  grind

theorem operateImmWord_bit (op : BitVec 4) (dest src1 : RegIdx) (imm5 : BitVec 5) (k : Nat) :
    (operateImmWord op dest src1 imm5).getLsbD k =
      if k < 5 then imm5.getLsbD k else if k = 5 then true else if k < 9 then (regBits src1).getLsbD (k - 6)
      else if k < 12 then (regBits dest).getLsbD (k - 9) else op.getLsbD (k - 12) := by
  refine BitVec.getLsbD_append.trans ?_
  rw [BitVec.getLsbD_append, BitVec.getLsbD_append, BitVec.getLsbD_append, show k - 5 - 1 = k - 6 by omega,
    show k - 6 - 3 = k - 9 by omega, show k - 9 - 3 = k - 12 by omega]
  have h1 : k - 5 < 1 → k ≥ 5 → (1#1).getLsbD (k - 5) = true := by
    intro h h'
    rw [show k - 5 = 0 by omega]
    rfl
  grind

theorem operateRegWord_bit (op : BitVec 4) (dest src1 src2 : RegIdx) (k : Nat) :
    (operateRegWord op dest src1 src2).getLsbD k =
      if k < 3 then (regBits src2).getLsbD k else if k < 6 then false else if k < 9 then (regBits src1).getLsbD (k - 6)
      else if k < 12 then (regBits dest).getLsbD (k - 9) else op.getLsbD (k - 12) := by
  refine BitVec.getLsbD_append.trans ?_
  rw [BitVec.getLsbD_append, BitVec.getLsbD_append, BitVec.getLsbD_append, BitVec.getLsbD_append,
    show k - 3 - 2 = k - 5 by omega, show k - 5 - 1 = k - 6 by omega,
    show k - 6 - 3 = k - 9 by omega, show k - 9 - 3 = k - 12 by omega]
  simp only [BitVec.getLsbD_zero]
  grind

/-! ## Fields -/

/-- A field of a word, bit by bit. -/
theorem extract_eq {w : Word} {n : Nat} (lo : Nat) (field : BitVec n)
    (h : ∀ k < n, w.getLsbD (lo + k) = field.getLsbD k) : w.extractLsb' lo n = field := by
  apply BitVec.eq_of_getLsbD_eq
  intro k hk
  rw [BitVec.getLsbD_extractLsb', h k hk]
  simp [hk]

theorem regBits_toFin (r : RegIdx) : (regBits r).toFin = r := rfl

@[simp] theorem unusedField_placeholderWord (op : BitVec 4) (unused : BitVec 12) :
    unusedField (placeholderWord op unused) = unused :=
  extract_eq 0 unused (fun k hk => by rw [placeholderWord_bit]; simp [hk])

@[simp] theorem vector8Field_trapWord (vector8 : BitVec 8) : vector8Field (trapWord vector8) = vector8 :=
  extract_eq 0 vector8 (fun k hk => by rw [trapWord_bit]; simp [hk])

@[simp] theorem offset9Field_branchWord (n z p : Bool) (offset9 : BitVec 9) :
    offset9Field (branchWord n z p offset9) = offset9 :=
  extract_eq 0 offset9 (fun k hk => by rw [branchWord_bit]; simp [hk])

@[simp] theorem padField_notWord (dest src : RegIdx) (pad : BitVec 6) : padField (notWord dest src pad) = pad :=
  extract_eq 0 pad (fun k hk => by rw [notWord_bit]; simp [hk])

@[simp] theorem destField_notWord (dest src : RegIdx) (pad : BitVec 6) : destField (notWord dest src pad) = dest :=
  congrArg BitVec.toFin (extract_eq 9 (regBits dest) (fun k hk => by rw [notWord_bit]; grind))

@[simp] theorem src1Field_notWord (dest src : RegIdx) (pad : BitVec 6) : src1Field (notWord dest src pad) = src :=
  congrArg BitVec.toFin (extract_eq 6 (regBits src) (fun k hk => by rw [notWord_bit]; grind))

@[simp] theorem imm5Field_operateImmWord (op : BitVec 4) (dest src1 : RegIdx) (imm5 : BitVec 5) :
    imm5Field (operateImmWord op dest src1 imm5) = imm5 :=
  extract_eq 0 imm5 (fun k hk => by rw [operateImmWord_bit]; simp [hk])

@[simp] theorem destField_operateImmWord (op : BitVec 4) (dest src1 : RegIdx) (imm5 : BitVec 5) :
    destField (operateImmWord op dest src1 imm5) = dest :=
  congrArg BitVec.toFin (extract_eq 9 (regBits dest) (fun k hk => by rw [operateImmWord_bit]; grind))

@[simp] theorem src1Field_operateImmWord (op : BitVec 4) (dest src1 : RegIdx) (imm5 : BitVec 5) :
    src1Field (operateImmWord op dest src1 imm5) = src1 :=
  congrArg BitVec.toFin (extract_eq 6 (regBits src1) (fun k hk => by rw [operateImmWord_bit]; grind))

@[simp] theorem destField_operateRegWord (op : BitVec 4) (dest src1 src2 : RegIdx) :
    destField (operateRegWord op dest src1 src2) = dest :=
  congrArg BitVec.toFin (extract_eq 9 (regBits dest) (fun k hk => by rw [operateRegWord_bit]; grind))

@[simp] theorem src1Field_operateRegWord (op : BitVec 4) (dest src1 src2 : RegIdx) :
    src1Field (operateRegWord op dest src1 src2) = src1 :=
  congrArg BitVec.toFin (extract_eq 6 (regBits src1) (fun k hk => by rw [operateRegWord_bit]; grind))

@[simp] theorem src2Field_operateRegWord (op : BitVec 4) (dest src1 src2 : RegIdx) :
    src2Field (operateRegWord op dest src1 src2) = src2 :=
  congrArg BitVec.toFin (extract_eq 0 (regBits src2) (fun k hk => by rw [operateRegWord_bit]; simp [hk]))

/-! ## What a word with a given opcode decodes to -/

/-- Bits 15:12 are the opcode's bits. -/
theorem opcodeField_bit (w : Word) (k : Nat) (hk : k < 4) : (opcodeField w).getLsbD k = w.getLsbD (12 + k) := by
  simp only [opcodeField, BitVec.getLsbD_extractLsb', hk, decide_true, Bool.true_and]

theorem opcodeField_eq_iff (w : Word) (op : BitVec 4) :
    opcodeField w = op ↔ w.getLsbD 15 = op.getLsbD 3 ∧ w.getLsbD 14 = op.getLsbD 2 ∧ w.getLsbD 13 = op.getLsbD 1 ∧
      w.getLsbD 12 = op.getLsbD 0 := by
  constructor
  · rintro rfl
    exact ⟨(opcodeField_bit w 3 (by decide)).symm, (opcodeField_bit w 2 (by decide)).symm,
      (opcodeField_bit w 1 (by decide)).symm, (opcodeField_bit w 0 (by decide)).symm⟩
  · rintro ⟨h3, h2, h1, h0⟩
    refine extract_eq 12 op (fun k hk => ?_)
    obtain rfl | rfl | rfl | rfl : k = 0 ∨ k = 1 ∨ k = 2 ∨ k = 3 := by omega
    all_goals assumption

end Sys2Proof
end

