-- ==== Sys2Proof/Laws/State.lean ====
section
/-! SUPPORT. One lemma per field per update of the state, and the register file's own read-after-write. -/

namespace Sys2Proof.Machine

variable (s : State) (i j : RegIdx) (v a : Word) (r : RunState)

/-! ## `writeReg` -/

@[simp] theorem State.writeReg_x : (s.writeReg i v).x = s.x.set i v := rfl
@[simp] theorem State.writeReg_cond : (s.writeReg i v).cond = i := rfl
@[simp] theorem State.writeReg_pc : (s.writeReg i v).pc = s.pc := rfl
@[simp] theorem State.writeReg_mem : (s.writeReg i v).mem = s.mem := rfl
@[simp] theorem State.writeReg_run : (s.writeReg i v).run = s.run := rfl
@[simp] theorem State.writeReg_fetch : (s.writeReg i v).fetch = s.fetch := rfl

@[simp] theorem State.reg_writeReg_same : (s.writeReg i v).reg i = v := by
  simp [State.reg, State.writeReg]

theorem State.reg_writeReg_ne (h : j ≠ i) : (s.writeReg i v).reg j = s.reg j := by
  have h' : (i : Nat) ≠ j := fun e => h (Fin.ext e.symm)
  simp [State.reg, State.writeReg, Vector.getElem_set_ne, h']

/-! ## `setPc` and `advancePc` -/

@[simp] theorem State.setPc_x : (s.setPc a).x = s.x := rfl
@[simp] theorem State.setPc_reg : (s.setPc a).reg i = s.reg i := rfl
@[simp] theorem State.setPc_cond : (s.setPc a).cond = s.cond := rfl
@[simp] theorem State.setPc_pc : (s.setPc a).pc = a := rfl
@[simp] theorem State.setPc_mem : (s.setPc a).mem = s.mem := rfl
@[simp] theorem State.setPc_run : (s.setPc a).run = s.run := rfl

@[simp] theorem State.advancePc_x : (s.advancePc a).x = s.x := rfl
@[simp] theorem State.advancePc_reg : (s.advancePc a).reg i = s.reg i := rfl
@[simp] theorem State.advancePc_cond : (s.advancePc a).cond = s.cond := rfl
@[simp] theorem State.advancePc_pc : (s.advancePc a).pc = s.pc + a := rfl
@[simp] theorem State.advancePc_mem : (s.advancePc a).mem = s.mem := rfl
@[simp] theorem State.advancePc_run : (s.advancePc a).run = s.run := rfl

/-! ## `setRun` -/

@[simp] theorem State.setRun_x : (s.setRun r).x = s.x := rfl
@[simp] theorem State.setRun_reg : (s.setRun r).reg i = s.reg i := rfl
@[simp] theorem State.setRun_cond : (s.setRun r).cond = s.cond := rfl
@[simp] theorem State.setRun_pc : (s.setRun r).pc = s.pc := rfl
@[simp] theorem State.setRun_mem : (s.setRun r).mem = s.mem := rfl
@[simp] theorem State.setRun_run : (s.setRun r).run = r := rfl
@[simp] theorem State.setRun_fetch : (s.setRun r).fetch = s.fetch := rfl

/-! ## `writeMem` -/

@[simp] theorem State.writeMem_x : (s.writeMem a v).x = s.x := rfl
@[simp] theorem State.writeMem_reg : (s.writeMem a v).reg i = s.reg i := rfl
@[simp] theorem State.writeMem_cond : (s.writeMem a v).cond = s.cond := rfl
@[simp] theorem State.writeMem_pc : (s.writeMem a v).pc = s.pc := rfl
@[simp] theorem State.writeMem_mem : (s.writeMem a v).mem = Memory.write s.mem a v := rfl
@[simp] theorem State.writeMem_run : (s.writeMem a v).run = s.run := rfl

end Sys2Proof.Machine
end

