-- ==== Sys2Proof/Laws/Ops.lean ====
section
/-! SUPPORT. For each shared operation, once, everything it can do. -/

namespace Sys2Proof.Machine

/-! ## Recording an error or a fault -/

theorem raiseError_eq (e : RunError) (s : State) : raiseError e s = { s with run := .error e } := rfl

theorem raiseFatal_eq (f : FatalFault) (s : State) : raiseFatal f s = { s with run := .fatal f } := rfl

/-! ## The end of a Step -/

/-- `afterContinue` changes `pc` or `run`, and nothing else. -/
@[simp] theorem afterContinue_x (p : Params) (s : State) : (afterContinue p s).x = s.x := by
  unfold afterContinue; split <;> rfl

@[simp] theorem afterContinue_reg (p : Params) (s : State) (i : RegIdx) : (afterContinue p s).reg i = s.reg i := by
  unfold afterContinue; split <;> rfl

@[simp] theorem afterContinue_cond (p : Params) (s : State) : (afterContinue p s).cond = s.cond := by
  unfold afterContinue; split <;> rfl

@[simp] theorem afterContinue_mem (p : Params) (s : State) : (afterContinue p s).mem = s.mem := by
  unfold afterContinue; split <;> rfl

/-- The two ways a Step goes on after `Continue`. -/
theorem afterContinue_cases (p : Params) (s : State) :
    (s.pc = p.topAddr ∧ afterContinue p s = { s with run := .halted }) ∨
    (s.pc ≠ p.topAddr ∧ afterContinue p s = { s with pc := s.pc + 1#16 }) := by
  unfold afterContinue
  split
  · exact .inl ⟨by assumption, rfl⟩
  · exact .inr ⟨by assumption, rfl⟩

/-- Every next state that the end of a Step can give. -/
theorem retire_next {p : Params} {s t : State} {r : HandlerResult} (h : retire p s r = .next t) :
    (∃ s', r = .continues s' ∧ t = afterContinue p s') ∨
    (∃ s', r = .halts s' ∧ t = { s' with run := .halted }) ∨
    (∃ e, r = .error e ∧ t = { s with run := .error e }) ∨
    (∃ f, r = .fatal f ∧ t = { s with run := .fatal f }) := by
  cases r with
  | continues s' => cases h; exact .inl ⟨s', rfl, rfl⟩
  | halts s' => cases h; exact .inr (.inl ⟨s', rfl, rfl⟩)
  | error e => cases h; exact .inr (.inr (.inl ⟨e, rfl, rfl⟩))
  | fatal f => cases h; exact .inr (.inr (.inr ⟨f, rfl, rfl⟩))
  | refuses m => cases h

/-! ## Operands -/

@[simp] theorem immOperand_params (imm5 : BitVec 5) : immOperand params imm5 = imm5.setWidth 16 := rfl

@[simp] theorem branchOffset_params (offset9 : BitVec 9) : branchOffset params offset9 = offset9.setWidth 16 := rfl

@[simp] theorem params_topAddr : params.topAddr = 0xFFFF#16 := rfl

/-! ## Handlers -/

@[simp] theorem handlePlaceholder_params (mnemonic : String) (s : State) :
    handlePlaceholder params mnemonic s = .continues s := rfl

@[simp] theorem handleNot_ones (dest src : RegIdx) (s : State) :
    handleNot dest src 0b111111#6 s = .continues (s.writeReg dest (~~~ s.reg src)) := rfl

theorem handleNot_bad (dest src : RegIdx) {pad : BitVec 6} (h : pad ≠ 0b111111#6) (s : State) :
    handleNot dest src pad s = .fatal (.badPadding (notWord dest src pad)) := by
  simp [handleNot, h]

/-- Everything a handler can do under the normative parameters, on any term. -/
theorem handle_cases (i : Instr) (s : State) :
    (∃ dest v, handle params i s = .continues (s.writeReg dest v)) ∨
    handle params i s = .continues s ∨
    (∃ n z p offset9, i = .br n z p offset9 ∧
      handle params i s = .continues (s.advancePc (offset9.setWidth 16))) ∨
    (i = .trap haltVector ∧ handle params i s = .halts s) ∨
    (∃ v, v ≠ haltVector ∧ i = .trap v ∧ handle params i s = .error (.unsupportedTrap v)) ∨
    (∃ dest src pad, pad ≠ 0b111111#6 ∧ encode i = notWord dest src pad ∧
      handle params i s = .fatal (.badPadding (notWord dest src pad))) := by
  have bad : ∀ dest src pad, encode i = notWord dest src pad →
      handle params i s = handleNot dest src pad s →
      (∃ dest v, handle params i s = .continues (s.writeReg dest v)) ∨
      (∃ dest src pad, pad ≠ 0b111111#6 ∧ encode i = notWord dest src pad ∧
        handle params i s = .fatal (.badPadding (notWord dest src pad))) := by
    intro dest src pad he hh
    by_cases hp : pad = 0b111111#6
    · exact .inl ⟨dest, _, by rw [hh, hp]; rfl⟩
    · exact .inr ⟨dest, src, pad, hp, he, by rw [hh, handleNot_bad _ _ hp]⟩
  cases i with
  | br n z p offset9 =>
    by_cases h : taken n z p (conditionClass s) = true
    · exact .inr (.inr (.inl ⟨n, z, p, offset9, rfl, by simp [handle, handleBr, h]⟩))
    · exact .inr (.inl (by simp [handle, handleBr, h]))
  | trap v =>
    by_cases h : v = haltVector
    · exact .inr (.inr (.inr (.inl ⟨by rw [h], by simp [handle, handleTrap, h]⟩)))
    · exact .inr (.inr (.inr (.inr (.inl ⟨v, h, rfl, by simp [handle, handleTrap, h]⟩))))
  | addReg d a b => exact .inl ⟨d, _, rfl⟩
  | addImm d a k => exact .inl ⟨d, _, rfl⟩
  | andReg d a b => exact .inl ⟨d, _, rfl⟩
  | andImm d a k => exact .inl ⟨d, _, rfl⟩
  | not d a => exact .inl ⟨d, _, rfl⟩
  | notBadPad0 d a pad | notBadPad10 d a pad | notBadPad110 d a pad | notBadPad1110 d a pad
  | notBadPad11110 d a pad | notBadPad111110 d a pad =>
    rcases bad d a pad rfl rfl with h | h
    · exact .inl h
    · exact .inr (.inr (.inr (.inr (.inr h))))
  | ld _ | st _ | jsr _ | ldr _ | str _ | rti _ | ldi _ | sti _ | jmpRet _ | rsv _ | lea _ => exact .inr (.inl rfl)

end Sys2Proof.Machine
end

