-- ==== Sys2Proof/Laws/Exec.lean ====
section
/-! SUPPORT. `exec` is the handler under the normative parameters followed by the end of the Step. -/

namespace Sys2Proof.Machine

theorem exec_eq_execWith (i : Instr) (s : State) : exec i s = execWith params i s := by
  cases i <;> rfl

/-- `exec` through the handler: what the later proofs cite instead of unfolding a meaning. -/
theorem exec_eq_retire (i : Instr) (s : State) : exec i s = retire params s (handle params i s) :=
  exec_eq_execWith i s

end Sys2Proof.Machine
end

