-- ==== Sys2Proof/Laws/Memory.lean ====
section
/-! SUPPORT. Every memory operation keeps the canonical form, and the reset memory has it. -/

namespace Sys2Proof.Machine

theorem Memory.wf_nil : Memory.wf [] := ⟨List.Pairwise.nil, by simp⟩

/-- The canonical form of a list, cell by cell. -/
theorem Memory.wf_cons {b : Nat} {u : Word} {m : Memory} :
    Memory.wf ((b, u) :: m) ↔ (∀ c ∈ m, b < c.1) ∧ b < 65536 ∧ u ≠ Memory.unlisted ∧ Memory.wf m := by
  constructor
  · rintro ⟨hp, hc⟩
    obtain ⟨h1, h2⟩ := List.pairwise_cons.mp hp
    obtain ⟨hb, hu⟩ := hc (b, u) (by simp)
    exact ⟨h1, hb, hu, h2, fun c h => hc c (by simp [h])⟩
  · rintro ⟨h1, hb, hu, h2, hc⟩
    refine ⟨List.pairwise_cons.mpr ⟨h1, h2⟩, fun c h => ?_⟩
    rcases List.mem_cons.mp h with rfl | h
    · exact ⟨hb, hu⟩
    · exact hc c h

theorem Memory.cell_wf {a : Nat} {v : Word} {m : Memory} (ha : a < 65536) (hlt : ∀ c ∈ m, a < c.1)
    (h : Memory.wf m) : Memory.wf (Memory.cell a v m) := by
  unfold Memory.cell
  split
  · exact h
  · exact Memory.wf_cons.mpr ⟨hlt, ha, by assumption, h⟩

/-- The cells of an updated list are old cells or at the updated address. -/
theorem Memory.mem_update {m : Memory} {a : Nat} {v : Word} {c : Nat × Word}
    (h : c ∈ Memory.update m a v) : c.1 = a ∨ c ∈ m := by
  induction m with
  | nil => simp only [Memory.update, Memory.cell] at h; split at h <;> simp_all
  | cons d m ih =>
    obtain ⟨b, u⟩ := d
    simp only [Memory.update, Memory.cell] at h
    split at h
    · split at h
      · exact .inr h
      · rcases List.mem_cons.mp h with rfl | h
        · exact .inl rfl
        · exact .inr h
    · split at h
      · split at h
        · exact .inr (by simp [h])
        · rcases List.mem_cons.mp h with rfl | h
          · exact .inl rfl
          · exact .inr (by simp [h])
      · rcases List.mem_cons.mp h with rfl | h
        · exact .inr (by simp)
        · exact (ih h).imp_right (by simp +contextual)

theorem Memory.update_wf {m : Memory} {a : Nat} {v : Word} (ha : a < 65536) (h : Memory.wf m) :
    Memory.wf (Memory.update m a v) := by
  induction m with
  | nil => exact Memory.cell_wf ha (by simp) h
  | cons d m ih =>
    obtain ⟨b, u⟩ := d
    obtain ⟨hb, hb', hu, hm⟩ := Memory.wf_cons.mp h
    simp only [Memory.update]
    split
    · rename_i hlt
      refine Memory.cell_wf ha (fun c hc => ?_) h
      rcases List.mem_cons.mp hc with rfl | hc
      · exact hlt
      · exact Nat.lt_trans hlt (hb c hc)
    · split
      · rename_i heq
        exact Memory.cell_wf ha (fun c hc => heq ▸ hb c hc) hm
      · refine Memory.wf_cons.mpr ⟨fun c hc => ?_, hb', hu, ih hm⟩
        rcases Memory.mem_update hc with h | h
        · omega
        · exact hb c h

/-- `MemWrite` keeps the canonical form. -/
theorem Memory.write_wf {m : Memory} (a v : Word) (h : Memory.wf m) : Memory.wf (Memory.write m a v) :=
  Memory.update_wf a.isLt h

/-- The loader's writes keep the canonical form. -/
theorem Memory.writeAll_wf {m : Memory} (a : Word) (words : List Word) (h : Memory.wf m) :
    Memory.wf (Memory.writeAll m a words) := by
  induction words generalizing m a with
  | nil => exact h
  | cons v rest ih => exact ih (a + 1#16) (Memory.write_wf a v h)

/-- The reset memory has the canonical form. -/
theorem State.reset_mem_wf : Memory.wf State.reset.mem := Memory.wf_nil

end Sys2Proof.Machine
end

