-- ==== Sys2Proof/Laws/PerInstr.lean ====
section
/-! SUPPORT. Per instruction: the encoding of a well-formed instruction fits its row of the opcode table. First, what each
word format keeps under a row's mask. -/

namespace Sys2Proof

theorem placeholderWord_masked (op : BitVec 4) (unused : BitVec 12) :
    placeholderWord op unused &&& 0xF000#16 = placeholderWord op 0#12 := by
  show (op ++ unused) &&& (0xF#4 ++ 0x000#12) = op ++ 0#12
  rw [BitVec.and_append, BitVec.and_zero]
  congr 1
  exact BitVec.and_allOnes

theorem trapWord_masked (vector8 : BitVec 8) : trapWord vector8 &&& 0xF000#16 = trapWord 0#8 := by
  show (0b1111#4 ++ 0#4 ++ vector8) &&& (0xF#4 ++ 0#4 ++ 0#8) = 0b1111#4 ++ 0#4 ++ 0#8
  rw [BitVec.and_append, BitVec.and_zero]
  rfl

theorem branchWord_masked (n z p : Bool) (offset9 : BitVec 9) : branchWord n z p offset9 &&& 0xF000#16 = 0x0000#16 := by
  show (0#4 ++ BitVec.ofBool n ++ BitVec.ofBool z ++ BitVec.ofBool p ++ offset9) &&&
    (0xF#4 ++ 0#1 ++ 0#1 ++ 0#1 ++ 0#9) = 0#4 ++ 0#1 ++ 0#1 ++ 0#1 ++ 0#9
  simp only [BitVec.and_append, BitVec.and_zero]
  rfl

theorem operateRegWord_masked (op : BitVec 4) (dest src1 src2 : RegIdx) :
    operateRegWord op dest src1 src2 &&& 0xF020#16 = operateRegWord op 0 0 0 := by
  show (op ++ regBits dest ++ regBits src1 ++ 0#1 ++ 0#2 ++ regBits src2) &&&
    (0xF#4 ++ 0#3 ++ 0#3 ++ 1#1 ++ 0#2 ++ 0#3) = op ++ 0#3 ++ 0#3 ++ 0#1 ++ 0#2 ++ 0#3
  have h : op &&& 0xF#4 = op := BitVec.and_allOnes
  simp only [BitVec.and_append, BitVec.and_zero, BitVec.zero_and, h]

theorem operateImmWord_masked (op : BitVec 4) (dest src1 : RegIdx) (imm5 : BitVec 5) :
    operateImmWord op dest src1 imm5 &&& 0xF020#16 = operateImmWord op 0 0 0#5 := by
  show (op ++ regBits dest ++ regBits src1 ++ 1#1 ++ imm5) &&& (0xF#4 ++ 0#3 ++ 0#3 ++ 1#1 ++ 0#5) =
    op ++ 0#3 ++ 0#3 ++ 1#1 ++ 0#5
  have h : op &&& 0xF#4 = op := BitVec.and_allOnes
  simp only [BitVec.and_append, BitVec.and_zero, BitVec.and_self, h]

/-- A row that looks at the opcode and at some bits of the pad. -/
theorem notWord_masked (dest src : RegIdx) (pad mask : BitVec 6) :
    notWord dest src pad &&& (0xF#4 ++ 0#3 ++ 0#3 ++ mask) = notWord 0 0 (pad &&& mask) := by
  show (0b1001#4 ++ regBits dest ++ regBits src ++ pad) &&& (0xF#4 ++ 0#3 ++ 0#3 ++ mask) =
    0b1001#4 ++ 0#3 ++ 0#3 ++ (pad &&& mask)
  simp only [BitVec.and_append, BitVec.and_zero]
  rfl

theorem OpcodeRow.fits_iff (r : OpcodeRow) (w : Word) : r.fits w = true ↔ w &&& r.mask = r.pattern := by
  simp [OpcodeRow.fits]

theorem padFits_iff (mask pattern pad : BitVec 6) : padFits mask pattern pad = true ↔ pad &&& mask = pattern := by
  simp [padFits]

/-- The shape of the six NOT_BADPAD rows. -/
theorem notWord_fits {dest src : RegIdx} {mask pattern pad : BitVec 6} (h : padFits mask pattern pad = true) :
    notWord dest src pad &&& (0xF#4 ++ 0#3 ++ 0#3 ++ mask) = notWord 0 0 pattern := by
  rw [notWord_masked, (padFits_iff _ _ _).mp h]

end Sys2Proof

/-- The family's statement. -/
def Sys2Proof.Laws.MatchesRow.Statement (i : Sys2Proof.Instr) : Prop :=
  i.wf = true → i.row.fits (Sys2Proof.encode i) = true

open Sys2Proof

theorem Sys2Proof.Laws.MatchesRow.br (n z p : Bool) (offset9 : BitVec 9) :
    Sys2Proof.Laws.MatchesRow.Statement (.br n z p offset9) :=
  fun _ => (OpcodeRow.fits_iff _ _).mpr (branchWord_masked n z p offset9)

theorem Sys2Proof.Laws.MatchesRow.addReg (dest src1 src2 : RegIdx) :
    Sys2Proof.Laws.MatchesRow.Statement (.addReg dest src1 src2) :=
  fun _ => (OpcodeRow.fits_iff _ _).mpr (operateRegWord_masked _ dest src1 src2)

theorem Sys2Proof.Laws.MatchesRow.addImm (dest src1 : RegIdx) (imm5 : BitVec 5) :
    Sys2Proof.Laws.MatchesRow.Statement (.addImm dest src1 imm5) :=
  fun _ => (OpcodeRow.fits_iff _ _).mpr (operateImmWord_masked _ dest src1 imm5)

theorem Sys2Proof.Laws.MatchesRow.ld (unused : BitVec 12) :
    Sys2Proof.Laws.MatchesRow.Statement (.ld unused) :=
  fun _ => (OpcodeRow.fits_iff _ _).mpr (placeholderWord_masked _ unused)

theorem Sys2Proof.Laws.MatchesRow.st (unused : BitVec 12) :
    Sys2Proof.Laws.MatchesRow.Statement (.st unused) :=
  fun _ => (OpcodeRow.fits_iff _ _).mpr (placeholderWord_masked _ unused)

theorem Sys2Proof.Laws.MatchesRow.jsr (unused : BitVec 12) :
    Sys2Proof.Laws.MatchesRow.Statement (.jsr unused) :=
  fun _ => (OpcodeRow.fits_iff _ _).mpr (placeholderWord_masked _ unused)

theorem Sys2Proof.Laws.MatchesRow.andReg (dest src1 src2 : RegIdx) :
    Sys2Proof.Laws.MatchesRow.Statement (.andReg dest src1 src2) :=
  fun _ => (OpcodeRow.fits_iff _ _).mpr (operateRegWord_masked _ dest src1 src2)

theorem Sys2Proof.Laws.MatchesRow.andImm (dest src1 : RegIdx) (imm5 : BitVec 5) :
    Sys2Proof.Laws.MatchesRow.Statement (.andImm dest src1 imm5) :=
  fun _ => (OpcodeRow.fits_iff _ _).mpr (operateImmWord_masked _ dest src1 imm5)

theorem Sys2Proof.Laws.MatchesRow.ldr (unused : BitVec 12) :
    Sys2Proof.Laws.MatchesRow.Statement (.ldr unused) :=
  fun _ => (OpcodeRow.fits_iff _ _).mpr (placeholderWord_masked _ unused)

theorem Sys2Proof.Laws.MatchesRow.str (unused : BitVec 12) :
    Sys2Proof.Laws.MatchesRow.Statement (.str unused) :=
  fun _ => (OpcodeRow.fits_iff _ _).mpr (placeholderWord_masked _ unused)

theorem Sys2Proof.Laws.MatchesRow.rti (unused : BitVec 12) :
    Sys2Proof.Laws.MatchesRow.Statement (.rti unused) :=
  fun _ => (OpcodeRow.fits_iff _ _).mpr (placeholderWord_masked _ unused)

theorem Sys2Proof.Laws.MatchesRow.not (dest src : RegIdx) :
    Sys2Proof.Laws.MatchesRow.Statement (.not dest src) :=
  fun _ => (OpcodeRow.fits_iff _ _).mpr (notWord_masked dest src 0b111111#6 0b111111#6)

theorem Sys2Proof.Laws.MatchesRow.notBadPad0 (dest src : RegIdx) (pad : BitVec 6) :
    Sys2Proof.Laws.MatchesRow.Statement (.notBadPad0 dest src pad) :=
  fun h => (OpcodeRow.fits_iff _ _).mpr (notWord_fits h)

theorem Sys2Proof.Laws.MatchesRow.notBadPad10 (dest src : RegIdx) (pad : BitVec 6) :
    Sys2Proof.Laws.MatchesRow.Statement (.notBadPad10 dest src pad) :=
  fun h => (OpcodeRow.fits_iff _ _).mpr (notWord_fits h)

theorem Sys2Proof.Laws.MatchesRow.notBadPad110 (dest src : RegIdx) (pad : BitVec 6) :
    Sys2Proof.Laws.MatchesRow.Statement (.notBadPad110 dest src pad) :=
  fun h => (OpcodeRow.fits_iff _ _).mpr (notWord_fits h)

theorem Sys2Proof.Laws.MatchesRow.notBadPad1110 (dest src : RegIdx) (pad : BitVec 6) :
    Sys2Proof.Laws.MatchesRow.Statement (.notBadPad1110 dest src pad) :=
  fun h => (OpcodeRow.fits_iff _ _).mpr (notWord_fits h)

theorem Sys2Proof.Laws.MatchesRow.notBadPad11110 (dest src : RegIdx) (pad : BitVec 6) :
    Sys2Proof.Laws.MatchesRow.Statement (.notBadPad11110 dest src pad) :=
  fun h => (OpcodeRow.fits_iff _ _).mpr (notWord_fits h)

theorem Sys2Proof.Laws.MatchesRow.notBadPad111110 (dest src : RegIdx) (pad : BitVec 6) :
    Sys2Proof.Laws.MatchesRow.Statement (.notBadPad111110 dest src pad) :=
  fun h => (OpcodeRow.fits_iff _ _).mpr (notWord_fits h)

theorem Sys2Proof.Laws.MatchesRow.ldi (unused : BitVec 12) :
    Sys2Proof.Laws.MatchesRow.Statement (.ldi unused) :=
  fun _ => (OpcodeRow.fits_iff _ _).mpr (placeholderWord_masked _ unused)

theorem Sys2Proof.Laws.MatchesRow.sti (unused : BitVec 12) :
    Sys2Proof.Laws.MatchesRow.Statement (.sti unused) :=
  fun _ => (OpcodeRow.fits_iff _ _).mpr (placeholderWord_masked _ unused)

theorem Sys2Proof.Laws.MatchesRow.jmpRet (unused : BitVec 12) :
    Sys2Proof.Laws.MatchesRow.Statement (.jmpRet unused) :=
  fun _ => (OpcodeRow.fits_iff _ _).mpr (placeholderWord_masked _ unused)

theorem Sys2Proof.Laws.MatchesRow.rsv (unused : BitVec 12) :
    Sys2Proof.Laws.MatchesRow.Statement (.rsv unused) :=
  fun _ => (OpcodeRow.fits_iff _ _).mpr (placeholderWord_masked _ unused)

theorem Sys2Proof.Laws.MatchesRow.lea (unused : BitVec 12) :
    Sys2Proof.Laws.MatchesRow.Statement (.lea unused) :=
  fun _ => (OpcodeRow.fits_iff _ _).mpr (placeholderWord_masked _ unused)

theorem Sys2Proof.Laws.MatchesRow.trap (vector8 : BitVec 8) :
    Sys2Proof.Laws.MatchesRow.Statement (.trap vector8) :=
  fun _ => (OpcodeRow.fits_iff _ _).mpr (trapWord_masked vector8)
end

