-- ==== Sys2Proof/Tests/Slice0.lean ====
section
/-! SUPPORT. The model's own tests. Words are written out from the formats of 30_encoding.md, results are those of
95_test_vectors.md (its vector's name stands in the comment). Last, a witness for the hypotheses of every statement. -/

namespace Sys2Proof.Tests

open Sys2Proof.Machine

/-! ## Helpers -/

/-- The created state with `pc` set and one word placed there. -/
def at_ (pc w : Word) : State := (State.reset.setPc pc).writeMem pc w

/-- What a vector looks at: one register, the condition source, `pc`, `run`, and whether memory is as it was. -/
def view (r : RegIdx) (s : State) : Option (Word × RegIdx × Word × RunState × Bool) :=
  match step s with
  | .next t => some (t.reg r, t.cond, t.pc, t.run, t.mem == s.mem)
  | .fault _ => none
  | .refused _ => none

/-- The given state of every vector of 95_test_vectors.md section 2.7. -/
def phState (pc w : Word) : State := ((at_ pc w).writeReg 0 0x0005#16).writeReg 1 0xFFFF#16

/-- A step leaves a state as it was but for `pc`. -/
def onlyPc (s : State) (pc : Word) : Bool :=
  match step s with
  | .next t => t == { s with pc := pc }
  | .fault _ => false
  | .refused _ => false

/-! ## Decoding: words written out from the formats -/

-- R56: op(4) n(1) z(1) p(1) offset9(9)
theorem test_decode_br : decode 0b0000_1_0_1_100000011#16 = .br true false true 0b100000011#9 := by decide
-- R52: op(4) dest(3) src1(3) mode(1) skipped(2) src2(3)
theorem test_decode_addReg : decode 0b0001_110_011_0_00_101#16 = .addReg 6 3 5 := by decide
-- R62: bits 4:3 are ignored (ADD-5)
theorem test_decode_addReg_ignored : decode 0b0001_000_001_0_11_010#16 = .addReg 0 1 2 := by decide
-- R52: op(4) dest(3) src1(3) mode(1) imm5(5)
theorem test_decode_addImm : decode 0b0001_110_011_1_10001#16 = .addImm 6 3 0b10001#5 := by decide
theorem test_decode_andReg : decode 0b0101_011_001_0_00_010#16 = .andReg 3 1 2 := by decide
theorem test_decode_andImm : decode 0b0101_010_001_1_11111#16 = .andImm 2 1 31#5 := by decide
-- R53: op(4) dest(3) src(3) pad(6)
theorem test_decode_not : decode 0b1001_110_011_111111#16 = .not 6 3 := by decide
-- R60 and the NOT_BADPAD rows of the opcode table, by leading bits of the pad
theorem test_decode_notBadPad0 : decode 0b1001_110_011_011111#16 = .notBadPad0 6 3 0b011111#6 := by decide
theorem test_decode_notBadPad10 : decode 0b1001_110_011_101111#16 = .notBadPad10 6 3 0b101111#6 := by decide
theorem test_decode_notBadPad110 : decode 0b1001_110_011_110111#16 = .notBadPad110 6 3 0b110111#6 := by decide
theorem test_decode_notBadPad1110 : decode 0b1001_110_011_111011#16 = .notBadPad1110 6 3 0b111011#6 := by decide
theorem test_decode_notBadPad11110 : decode 0b1001_110_011_111101#16 = .notBadPad11110 6 3 0b111101#6 := by decide
theorem test_decode_notBadPad111110 : decode 0b1001_110_011_111110#16 = .notBadPad111110 6 3 0b111110#6 := by decide
-- R58: op(4) and twelve bits that nothing reads; the opcodes are those of R59
theorem test_decode_ld : decode 0b0010_000000000000#16 = .ld 0#12 := by decide
theorem test_decode_st : decode 0b0011_111111111111#16 = .st 0xFFF#12 := by decide
theorem test_decode_jsr : decode 0b0100_111111111111#16 = .jsr 0xFFF#12 := by decide
theorem test_decode_ldr : decode 0b0110_000000000000#16 = .ldr 0#12 := by decide
theorem test_decode_str : decode 0b0111_000000000000#16 = .str 0#12 := by decide
theorem test_decode_rti : decode 0b1000_000000000000#16 = .rti 0#12 := by decide
theorem test_decode_ldi : decode 0b1010_000100100011#16 = .ldi 0x123#12 := by decide
theorem test_decode_sti : decode 0b1011_000000000000#16 = .sti 0#12 := by decide
theorem test_decode_jmpRet : decode 0b1100_000111000000#16 = .jmpRet 0x1C0#12 := by decide
theorem test_decode_rsv : decode 0b1101_000000000000#16 = .rsv 0#12 := by decide
theorem test_decode_lea : decode 0b1110_000000000001#16 = .lea 1#12 := by decide
-- R57: op(4) pad(4) vector8(8); the pad is ignored (TRAP-2)
theorem test_decode_trap : decode 0b1111_1111_00100101#16 = .trap 0x25#8 := by decide

-- R67: the spec's own encoding example, and HALT of R65
theorem test_encode : encode (.addImm 0 1 1#5) = 0x1061#16 ∧ encode (.trap 0x25#8) = 0xF025#16 := by decide
theorem test_decodeTableWord : decodeTableWord 16 0x1061 = some (.addImm 0 1 1#5) := by decide
-- R45: one word holds one instruction; there is none in no words
theorem test_decode_noWord : decodeWords [] = .error .noWord := rfl
theorem test_withFetchWord : view 0 (State.reset.withFetchWord 16 0x1021) =
    some (0x0001#16, 0, 0x0001#16, .running, true) := by decide

/-! ## Well-formedness: for each check, terms it refuses (the pads just outside the row) -/

theorem test_wf_notBadPad0 : (Instr.notBadPad0 0 1 0b100000#6).wf = false := by decide
theorem test_wf_notBadPad10 : (Instr.notBadPad10 0 1 0b011111#6).wf = false ∧
    (Instr.notBadPad10 0 1 0b110000#6).wf = false := by decide
theorem test_wf_notBadPad110 : (Instr.notBadPad110 0 1 0b101111#6).wf = false ∧
    (Instr.notBadPad110 0 1 0b111000#6).wf = false := by decide
theorem test_wf_notBadPad1110 : (Instr.notBadPad1110 0 1 0b110111#6).wf = false ∧
    (Instr.notBadPad1110 0 1 0b111100#6).wf = false := by decide
theorem test_wf_notBadPad11110 : (Instr.notBadPad11110 0 1 0b111011#6).wf = false ∧
    (Instr.notBadPad11110 0 1 0b111110#6).wf = false := by decide
theorem test_wf_notBadPad111110 : (Instr.notBadPad111110 0 1 0b111101#6).wf = false ∧
    (Instr.notBadPad111110 0 1 0b111111#6).wf = false := by decide

/-! ## Steps -/

-- ADD-8, ADD-4
theorem test_addReg : view 7 (((at_ 0x3000#16 0x1F85#16).writeReg 6 0x1234#16).writeReg 5 0x4321#16) =
    some (0x5555#16, 7, 0x3001#16, .running, true) := by decide
theorem test_addReg_wraps : view 0 (((at_ 0x3000#16 0x1042#16).writeReg 1 0x8000#16).writeReg 2 0x8000#16) =
    some (0x0000#16, 0, 0x3001#16, .running, true) := by decide
-- ADD-1, ADD-3
theorem test_addImm_overflow : view 0 ((at_ 0x3000#16 0x1061#16).writeReg 1 0x7FFF#16) =
    some (0x8000#16, 0, 0x3001#16, .running, true) := by decide
theorem test_addImm_zext : view 3 ((at_ 0x3000#16 0x16FF#16).writeReg 3 0xFFF0#16) =
    some (0x000F#16, 3, 0x3001#16, .running, true) := by decide
-- AND-3, AND-4
theorem test_andReg : view 3 (((at_ 0x3000#16 0x5642#16).writeReg 1 0xF0F0#16).writeReg 2 0xFF00#16) =
    some (0xF000#16, 3, 0x3001#16, .running, true) := by decide
theorem test_andReg_sets_cond : view 4 (((at_ 0x3000#16 0x5904#16).writeReg 4 0x8000#16).writeReg 1 0x1#16) =
    some (0x8000#16, 4, 0x3001#16, .running, true) := by decide
-- AND-2, AND-1
theorem test_andImm_zext : view 2 ((at_ 0x3000#16 0x547F#16).writeReg 1 0xFFFF#16) =
    some (0x001F#16, 2, 0x3001#16, .running, true) := by decide
theorem test_andImm_clears : view 0 ((at_ 0x3000#16 0x5060#16).writeReg 1 0xFFFF#16) =
    some (0x0000#16, 0, 0x3001#16, .running, true) := by decide
-- NOT-1, NOT-2
theorem test_not : view 0 ((at_ 0x3000#16 0x907F#16).writeReg 1 0x0F0F#16) =
    some (0xF0F0#16, 0, 0x3001#16, .running, true) := by decide
theorem test_not_in_place : view 2 (at_ 0x3000#16 0x94BF#16) =
    some (0xFFFF#16, 2, 0x3001#16, .running, true) := by decide
-- NOT-4, NOT-5, and R121 for the four rows between: the word is recorded, R0 and cond stay
theorem test_notBadPad0 : view 0 ((at_ 0x3000#16 0x9040#16).writeReg 1 0x0F0F#16) =
    some (0x0000#16, 1, 0x3000#16, .fatal (.badPadding 0x9040#16), true) := by decide
theorem test_notBadPad10 : view 0 ((at_ 0x3000#16 0x9060#16).writeReg 1 0x0F0F#16) =
    some (0x0000#16, 1, 0x3000#16, .fatal (.badPadding 0x9060#16), true) := by decide
theorem test_notBadPad110 : view 0 ((at_ 0x3000#16 0x9070#16).writeReg 1 0x0F0F#16) =
    some (0x0000#16, 1, 0x3000#16, .fatal (.badPadding 0x9070#16), true) := by decide
theorem test_notBadPad1110 : view 0 ((at_ 0x3000#16 0x9078#16).writeReg 1 0x0F0F#16) =
    some (0x0000#16, 1, 0x3000#16, .fatal (.badPadding 0x9078#16), true) := by decide
theorem test_notBadPad11110 : view 0 ((at_ 0x3000#16 0x907D#16).writeReg 1 0x0F0F#16) =
    some (0x0000#16, 1, 0x3000#16, .fatal (.badPadding 0x907D#16), true) := by decide
theorem test_notBadPad111110 : view 0 ((at_ 0x3000#16 0x907E#16).writeReg 1 0x0F0F#16) =
    some (0x0000#16, 1, 0x3000#16, .fatal (.badPadding 0x907E#16), true) := by decide
-- BR-1 and BR-2; BR-8, BR-9, BR-17
theorem test_br_class :
    onlyPc ((at_ 0x3000#16 0x0803#16).writeReg 2 0xFFFB#16) 0x3004#16 = true ∧
    onlyPc ((at_ 0x3000#16 0x0403#16).writeReg 2 0xFFFB#16) 0x3001#16 = true ∧
    onlyPc (at_ 0x3000#16 0x0A03#16) 0x3001#16 = true ∧
    onlyPc ((at_ 0x3000#16 0x0603#16).writeReg 5 0x0001#16) 0x3004#16 = true ∧
    onlyPc ((at_ 0x3000#16 0x0203#16).writeReg 1 0x8000#16) 0x3001#16 = true := by decide
-- BR-10, BR-12, BR-13, BR-14, BR-15
theorem test_br_target :
    onlyPc (at_ 0x3000#16 0x01FF#16) 0x3200#16 = true ∧
    onlyPc (at_ 0xFF00#16 0x01FF#16) 0x0100#16 = true ∧
    view 0 (at_ 0xFE00#16 0x01FF#16) = some (0#16, 0, 0xFFFF#16, .halted, true) ∧
    view 0 (at_ 0xFFFF#16 0x0000#16) = some (0#16, 0, 0xFFFF#16, .halted, true) ∧
    onlyPc (at_ 0xFFFF#16 0x0001#16) 0x0001#16 = true := by decide
-- TRAP-1, TRAP-2, TRAP-8
theorem test_trap_halt :
    view 0 (at_ 0x3006#16 0xF025#16) = some (0#16, 0, 0x3006#16, .halted, true) ∧
    view 0 (at_ 0x3006#16 0xFF25#16) = some (0#16, 0, 0x3006#16, .halted, true) ∧
    view 0 (at_ 0xFFFF#16 0xF025#16) = some (0#16, 0, 0xFFFF#16, .halted, true) :=
  ⟨by decide, by decide, by decide⟩
-- TRAP-3, TRAP-5, TRAP-6
theorem test_trap_unsupported :
    view 0 (at_ 0x3006#16 0xF020#16) = some (0#16, 0, 0x3006#16, .error (.unsupportedTrap 0x20#8), true) ∧
    view 0 (at_ 0x3006#16 0xF0FF#16) = some (0#16, 0, 0x3006#16, .error (.unsupportedTrap 0xFF#8), true) ∧
    view 0 (at_ 0xFFFF#16 0xF020#16) = some (0#16, 0, 0xFFFF#16, .error (.unsupportedTrap 0x20#8), true) :=
  ⟨by decide, by decide, by decide⟩
-- PH-1 to PH-11
theorem test_jmpRet : onlyPc (phState 0x3000#16 0xC000#16) 0x3001#16 = true := by decide
theorem test_jsr : onlyPc (phState 0x3000#16 0x4FFF#16) 0x3001#16 = true := by decide
theorem test_ld : onlyPc (phState 0x3000#16 0x2000#16) 0x3001#16 = true := by decide
theorem test_ldi : onlyPc (phState 0x3000#16 0xA123#16) 0x3001#16 = true := by decide
theorem test_ldr : onlyPc (phState 0x3000#16 0x6000#16) 0x3001#16 = true := by decide
theorem test_lea : onlyPc (phState 0x3000#16 0xE000#16) 0x3001#16 = true := by decide
theorem test_rti : onlyPc (phState 0x3000#16 0x8000#16) 0x3001#16 = true := by decide
theorem test_st : onlyPc (phState 0x3000#16 0x3FFF#16) 0x3001#16 = true := by decide
theorem test_sti : onlyPc (phState 0x3000#16 0xB000#16) 0x3001#16 = true := by decide
theorem test_str : onlyPc (phState 0x3000#16 0x7000#16) 0x3001#16 = true := by decide
theorem test_rsv : onlyPc (phState 0x3000#16 0xD000#16) 0x3001#16 = true := by decide
-- PH-12
theorem test_ld_at_the_top : view 1 (phState 0xFFFF#16 0x2000#16) =
    some (0xFFFF#16, 1, 0xFFFF#16, .halted, true) := by decide
-- LOAD-3: a Step without a load runs BR #0 at address 0
theorem test_step_from_reset : onlyPc State.reset 0x0001#16 = true := by decide

/-! ## Memory and the host's operations -/

-- The canonical form: writing what an unlisted address reads as removes the cell; order of writes does not matter
theorem test_memory_canonical :
    Memory.write (Memory.write [] 5#16 7#16) 5#16 0#16 = [] ∧
    Memory.write (Memory.write [] 9#16 1#16) 5#16 2#16 = Memory.write (Memory.write [] 5#16 2#16) 9#16 1#16 := by decide
-- LOAD-1, its bytes
theorem test_load_bytes : (loadBytes [0x30#8, 0x00#8, 0x10#8, 0x61#8, 0xF0#8, 0x25#8] State.reset) =
    some { State.reset with pc := 0x3000#16, mem := [(0x3000, 0x1061#16), (0x3001, 0xF025#16)] } := by decide
-- LOAD-1, its run
theorem test_run : runFor 9 (load 0x3000#16 [0x1061#16, 0xF025#16] State.reset) =
    { ((load 0x3000#16 [0x1061#16, 0xF025#16] State.reset).writeReg 0 1#16) with
      pc := 0x3001#16, run := .halted } := by decide
-- LOAD-2
theorem test_load_wraps : (loadImage [0xFFFF#16, 0x1021#16, 0x1021#16] State.reset) =
    some { State.reset with pc := 0xFFFF#16, mem := [(0x0000, 0x1021#16), (0xFFFF, 0x1021#16)] } := by decide
-- CYC-1 to CYC-5
theorem test_hostDispatch :
    hostDispatch 0x1021#16 State.reset = .next (.continues, State.reset.writeReg 0 1#16) ∧
    hostDispatch 0x0003#16 State.reset = .next (.continues, State.reset.setPc 3#16) ∧
    hostDispatch 0xF025#16 State.reset = .next (.halts, State.reset) ∧
    hostDispatch 0xF020#16 State.reset = .next (.error (.unsupportedTrap 0x20#8), State.reset) ∧
    hostDispatch 0x9040#16 State.reset =
      .next (.fatal (.badPadding 0x9040#16), State.reset.setRun (.fatal (.badPadding 0x9040#16))) :=
  ⟨rfl, rfl, rfl, rfl, rfl⟩
-- RD-1, RD-4
theorem test_reader_slices :
    (BitReader.ofWord 0x1061#16).readAll [4, 3, 3, 1, 5] = .ok ([1, 0, 1, 1, 1], ⟨0x1061#16, 0⟩) ∧
    (BitReader.ofWord 0xFFFF#16).readAll [5, 5, 5, 1] = .ok ([31, 31, 31, 1], ⟨0xFFFF#16, 0⟩) := ⟨rfl, rfl⟩
-- RD-2, RD-5
theorem test_reader_end_and_skip :
    (BitReader.mk 0x1061#16 12).readToEnd = (0x061#12, ⟨0x1061#16, 0⟩) ∧
    (BitReader.mk 0x1061#16 12).skip 2 = .ok ⟨0x1061#16, 10⟩ ∧
    (BitReader.mk 0x1061#16 10).read 3 = .ok (0b000#3, ⟨0x1061#16, 7⟩) := ⟨rfl, rfl, rfl⟩
-- RD-6, RD-7
theorem test_reader_overrun :
    (BitReader.ofWord 0x1061#16).readAll [4, 13] = .error (.readerOverrun 0x1061#16) ∧
    (BitReader.ofWord 0x1061#16).readAll [16, 1] = .error (.readerOverrun 0x1061#16) := ⟨rfl, rfl⟩

/-! ## Witnesses: a concrete state and operands that meet a statement's hypotheses, by the statement's name -/

-- DecodeEncodeRoundTrip, BadPaddingRecordsTheWord, BadPaddingWritesNothing, OnlyAluInstructionsWriteRegisters,
-- ConditionClassIsThatOfTheLastWrite: the first and the last pad of every NOT_BADPAD row
theorem witness_wf :
    (Instr.notBadPad0 0 0 0b000000#6).wf = true ∧ (Instr.notBadPad0 7 7 0b011111#6).wf = true ∧
    (Instr.notBadPad10 0 0 0b100000#6).wf = true ∧ (Instr.notBadPad10 7 7 0b101111#6).wf = true ∧
    (Instr.notBadPad110 0 0 0b110000#6).wf = true ∧ (Instr.notBadPad110 7 7 0b110111#6).wf = true ∧
    (Instr.notBadPad1110 0 0 0b111000#6).wf = true ∧ (Instr.notBadPad1110 7 7 0b111011#6).wf = true ∧
    (Instr.notBadPad11110 0 0 0b111100#6).wf = true ∧ (Instr.notBadPad11110 7 7 0b111101#6).wf = true ∧
    (Instr.notBadPad111110 7 7 0b111110#6).wf = true ∧ (Instr.trap 0xFF#8).wf = true := by decide

theorem witness_DontCareBitsNeverMatter :
    0x1042#16 &&& careMask 0x1042#16 = 0x105A#16 &&& careMask 0x1042#16 ∧
    0x5642#16 &&& careMask 0x5642#16 = 0x565A#16 &&& careMask 0x5642#16 ∧
    0xF025#16 &&& careMask 0xF025#16 = 0xFF25#16 &&& careMask 0xF025#16 ∧
    0x2000#16 &&& careMask 0x2000#16 = 0x2FFF#16 &&& careMask 0x2000#16 ∧
    0xD000#16 &&& careMask 0xD000#16 = 0xDFFF#16 &&& careMask 0xD000#16 ∧
    0x1061#16 &&& careMask 0x1061#16 ≠ 0x1079#16 &&& careMask 0x1061#16 := by decide

-- One word for each clause, the NOT pads on both sides of all ones
theorem witness_OpcodeMapAndFormats :
    (0x0FFF#16).extractLsb' 12 4 = 0b0000#4 ∧
    ((0x1FDF#16).extractLsb' 12 4 = 0b0001#4 ∧ (0x1FDF#16).getLsbD 5 = false) ∧
    ((0x1FFF#16).extractLsb' 12 4 = 0b0001#4 ∧ (0x1FFF#16).getLsbD 5 = true) ∧
    ((0x5FDF#16).extractLsb' 12 4 = 0b0101#4 ∧ (0x5FDF#16).getLsbD 5 = false) ∧
    ((0x5FFF#16).extractLsb' 12 4 = 0b0101#4 ∧ (0x5FFF#16).getLsbD 5 = true) ∧
    ((0x9FFF#16).extractLsb' 12 4 = 0b1001#4 ∧ (0x9FFF#16).extractLsb' 0 6 = 0b111111#6) ∧
    ((0x9FFE#16).extractLsb' 12 4 = 0b1001#4 ∧ (0x9FFE#16).extractLsb' 0 6 ≠ 0b111111#6) ∧
    (0xF025#16).extractLsb' 12 4 = 0b1111#4 := by decide
theorem witness_OpcodeMapAndFormats_placeholders :
    (0x2FFF#16).extractLsb' 12 4 = 0b0010#4 ∧ (0x3FFF#16).extractLsb' 12 4 = 0b0011#4 ∧
    (0x4FFF#16).extractLsb' 12 4 = 0b0100#4 ∧ (0x6FFF#16).extractLsb' 12 4 = 0b0110#4 ∧
    (0x7FFF#16).extractLsb' 12 4 = 0b0111#4 ∧ (0x8FFF#16).extractLsb' 12 4 = 0b1000#4 ∧
    (0xAFFF#16).extractLsb' 12 4 = 0b1010#4 ∧ (0xBFFF#16).extractLsb' 12 4 = 0b1011#4 ∧
    (0xCFFF#16).extractLsb' 12 4 = 0b1100#4 ∧ (0xDFFF#16).extractLsb' 12 4 = 0b1101#4 ∧
    (0xEFFF#16).extractLsb' 12 4 = 0b1110#4 := by decide

theorem witness_IllegalWordsAreExactlyBadPads :
    illegalWord 7 7 0x3E#6 = 0x9FFE#16 ∧ (0x3E#6 ≠ 0x3F#6) ∧ (decode 0x9FFE#16).row.mnemonic = "NOT_BADPAD" := by decide

theorem witness_ReaderReadsContiguousSlices : [4, 3, 3, 1, 5].sum ≤ 16 ∧ [16].sum ≤ 16 ∧ ([] : List Nat).sum ≤ 16 := by
  decide

theorem witness_ReaderPreconditions :
    (BitReader.mk 0x1061#16 12).remaining < 13 ∧ 12 ≤ (BitReader.mk 0x1061#16 12).remaining ∧
    0 ≤ (BitReader.mk 0x1061#16 0).remaining ∧
    (10 ≤ 10 ∧ (0x1061#16).toNat % 2 ^ 10 = (0x1C61#16).toNat % 2 ^ 10) := by decide

-- RegisterWriteIsTheOnlyRegisterChange, OnlyAluInstructionsWriteRegisters, ConditionClassIsThatOfTheLastWrite,
-- MemoryWriteThenRead, NoInstructionWritesMemory, InstructionsReadNoMemory: an instruction that writes and one that does not
theorem witness_exec_next :
    (∃ t, exec (.addImm 7 0 1#5) State.reset = .next t) ∧ (∃ t, exec (.st 0#12) State.reset = .next t) := ⟨⟨_, rfl⟩, ⟨_, rfl⟩⟩

theorem witness_RegisterAccessorsFailFast : (∃ i : RegIdx, 7 = i.val) ∧ 8 ≤ 8 := ⟨⟨7, rfl⟩, by decide⟩

theorem witness_MemoryWriteThenRead :
    Memory.wf ([(3, 1#16), (0xFFFF, 2#16)] : Memory) ∧ (0xFFFF#16 : Word) ≠ 3#16 := by decide

-- AddRegisterForm, AddImmediateForm, AndRegisterForm, AndImmediateForm, NotComplements
theorem witness_alu_words :
    0x105A#16 &&& 0xF020#16 = 0x1000#16 ∧ 0x1FFF#16 &&& 0xF020#16 = 0x1020#16 ∧
    0x5642#16 &&& 0xF020#16 = 0x5000#16 ∧ 0x547F#16 &&& 0xF020#16 = 0x5020#16 ∧
    0x907F#16 &&& 0xF03F#16 = 0x903F#16 := by decide

theorem witness_TrapHaltsOrReports : (0x25#8 : BitVec 8) = 0x25#8 ∧ (0x24#8 : BitVec 8) ≠ 0x25#8 := by decide

theorem witness_PlaceholdersAreNoOps :
    0xCFFF#16 &&& 0xF000#16 = 0xC000#16 ∧ 0x4FFF#16 &&& 0xF000#16 = 0x4000#16 ∧ 0x2FFF#16 &&& 0xF000#16 = 0x2000#16 ∧
    0xAFFF#16 &&& 0xF000#16 = 0xA000#16 ∧ 0x6FFF#16 &&& 0xF000#16 = 0x6000#16 ∧ 0xEFFF#16 &&& 0xF000#16 = 0xE000#16 ∧
    0x8FFF#16 &&& 0xF000#16 = 0x8000#16 ∧ 0x3FFF#16 &&& 0xF000#16 = 0x3000#16 ∧ 0xBFFF#16 &&& 0xF000#16 = 0xB000#16 ∧
    0x7FFF#16 &&& 0xF000#16 = 0x7000#16 ∧ State.reset.pc ≠ 0xFFFF#16 := by decide

-- ReservedOpcodeIsNoOp
theorem witness_ReservedOpcodeIsNoOp : (0xDFFF#16).extractLsb' 12 4 = 0b1101#4 ∧ State.reset.pc ≠ 0xFFFF#16 := by decide

-- StepRunsTheDecodedInstruction, StepIsTotalAndDeterministic, NextPcCandidates, NoInstructionWritesMemory
theorem witness_step :
    State.reset.run = .running ∧ decode (Memory.read State.reset.mem State.reset.pc) = .br false false false 0#9 ∧
    ∃ t, step State.reset = .next t ∧ t.run = .running := ⟨rfl, by decide, _, rfl, rfl⟩

-- NextPcCandidates: a taken branch onto the top ends the run
theorem witness_NextPcCandidates_top : ∃ t, step (at_ 0xFE00#16 0x01FF#16) = .next t ∧ t.run = .halted := ⟨_, rfl, rfl⟩

theorem witness_NoStepAfterTheRunIsOver : (State.reset.setRun .halted).run ≠ .running := by decide

-- ErrorsArePrecise, OnlyTrapsAndBadPadsRaise: an error and a fault
theorem witness_errors :
    (∃ t, step (at_ 0x3006#16 0xF024#16) = .next t ∧ t.run = .error (.unsupportedTrap 0x24#8)) ∧
    (∃ t, step (at_ 0x3000#16 0x9040#16) = .next t ∧ t.run = .fatal (.badPadding 0x9040#16)) :=
  ⟨⟨_, rfl, rfl⟩, ⟨_, rfl, rfl⟩⟩

-- BranchAfterWriteTestsTheValue: NOT R1,R0 then BRn #2 (program P2's middle)
theorem witness_BranchAfterWriteTestsTheValue :
    ∃ s t, step s = .next t ∧ writtenReg (decode s.fetch) = some 1 ∧ t.run = .running ∧
      decode t.fetch = .br true false false 2#9 :=
  ⟨load 0x3002#16 [0x923F#16, 0x0802#16] State.reset, _, rfl, by decide, by decide, by decide⟩

-- NoInstructionWritesMemory, RunEqualsStepping: one Step, and a run that is over after it
theorem witness_steps :
    ∃ t, StepsTo 1 (at_ 0x3006#16 0xF025#16) t ∧ Reaches (at_ 0x3006#16 0xF025#16) t ∧ t.run ≠ .running :=
  ⟨_, .more rfl (.none _), ⟨1, .more rfl (.none _)⟩, by decide⟩

-- StepKeepsInvariant: from a state no run reaches, and at reset
theorem witness_StepKeepsInvariant :
    Inv State.reset ∧ Inv (phState 0xFFFF#16 0x2000#16) ∧ ∃ t, step (phState 0xFFFF#16 0x2000#16) = .next t :=
  ⟨⟨by decide, trivial⟩, ⟨by decide, trivial⟩, _, rfl⟩

theorem witness_LoadedRunsKeepInvariant :
    Loaded (load 0x3000#16 [0xF025#16] State.reset) ∧
    ∃ t, Reaches (load 0x3000#16 [0xF025#16] State.reset) t ∧ t.run = .halted :=
  ⟨⟨_, _, by decide, rfl⟩, _, ⟨1, .more rfl (.none _)⟩, rfl⟩

-- NoBadPadMeansNoFatal: memory with one NOT whose pad is all ones
theorem witness_NoBadPadMeansNoFatal :
    (at_ 0#16 0x907F#16).run = .running ∧
    ∀ a, opcodeField (Memory.read (at_ 0#16 0x907F#16).mem a) = 0b1001#4 →
      padField (Memory.read (at_ 0#16 0x907F#16).mem a) = 0b111111#6 := by
  refine ⟨rfl, fun a h => ?_⟩
  change padField (if 0 = a.toNat then 0x907F#16 else 0#16) = _
  change opcodeField (if 0 = a.toNat then 0x907F#16 else 0#16) = _ at h
  split at h
  · rw [if_pos (by assumption)]; decide
  · exact absurd h (by decide)

-- LoadWritesTheImage: canonical memory, the empty image, one word too many, the longest image, a word and an address of it
theorem witness_LoadWritesTheImage :
    Memory.wf State.reset.mem ∧ 65536 < (List.replicate 65537 0#16).length ∧ (List.replicate 65536 0#16).length ≤ 65536 ∧
    0 < [0xF025#16].length ∧ ∀ k < [0xF025#16].length, (0x3001#16 : Word) ≠ 0x3000#16 + BitVec.ofNat 16 k := by
  refine ⟨State.reset_mem_wf, by rw [List.length_replicate]; decide, by rw [List.length_replicate], by decide, ?_⟩
  intro k hk
  have : k = 0 := by simpa using hk
  subst this; decide

theorem witness_ImageBytesAreBigEndian : [0x30#8, 0x00#8, 0x10#8].length % 2 = 1 := by decide

theorem witness_HostDispatchRunsTheHandlerOnly :
    (State.reset.setRun (.fatal (.badPadding 0x9040#16))).run = .fatal (.badPadding 0x9040#16) ∧
    ∀ f, (State.reset.setRun .halted).run ≠ .fatal f := ⟨rfl, fun _ h => by cases h⟩

theorem witness_EveryOperationKeepsMemoryCanonical :
    Memory.wf (at_ 0x3000#16 0x1021#16).mem ∧ (∃ t, step (at_ 0x3000#16 0x1021#16) = .next t) ∧
    (∃ r t, hostDispatch 0x1021#16 (at_ 0x3000#16 0x1021#16) = .next (r, t)) ∧
    ∃ t, setRegister 7 1#16 (at_ 0x3000#16 0x1021#16) = .ok t :=
  ⟨by decide, ⟨_, rfl⟩, ⟨_, _, rfl⟩, ⟨_, rfl⟩⟩

-- ExplicitFlagsAgree: a state that steps and one that faults
theorem witness_ExplicitFlagsAgree :
    FlagState.reset.flag = conditionClass FlagState.reset.core ∧ (∃ t, step FlagState.reset.core = .next t) ∧
    ∃ f : FlagState, f.flag = conditionClass f.core ∧ ∃ r, step f.core = .fault r :=
  ⟨by decide, ⟨_, rfl⟩, ⟨State.reset.setRun .halted, .zero⟩, by decide, _, rfl⟩

theorem witness_ExtensionChoiceAgreesOnSmallFields :
    (255#9 : BitVec 9).toNat < 256 ∧ 256 ≤ (256#9 : BitVec 9).toNat ∧ (15#5 : BitVec 5).toNat < 16 := by decide

theorem witness_RefusePolicyRefusesThePlaceholders :
    (∃ u, Instr.ld 5#12 ∈ [Instr.jmpRet u, .jsr u, .ld u, .ldi u, .ldr u, .lea u, .rti u, .st u, .sti u, .str u]) ∧
    ∀ u, Instr.rsv 5#12 ∉ [Instr.jmpRet u, .jsr u, .ld u, .ldi u, .ldr u, .lea u, .rti u, .st u, .sti u, .str u] :=
  ⟨⟨5#12, by decide⟩, fun u => by simp⟩

end Sys2Proof.Tests
end

/-! ## Proofs: TRAP -/

namespace Sys2Proof.Machine

/-! ### The end of a run, and a change of the run state alone -/

/-- R71: no Step is enabled once `run` has left `Running`. -/
theorem step_eq_fault {s : State} (h : s.run ≠ .running) : step s = .fault (.noStepEnabled s.run) :=
  if_neg h

theorem step_ne_next {s : State} (h : s.run ≠ .running) (u : State) : step s ≠ .next u := by
  simp [step_eq_fault h]

@[simp] theorem sameRegs_setRun (s : State) (r : RunState) : SameRegs s (s.setRun r) :=
  ⟨fun i => s.setRun_reg i r, s.setRun_cond r⟩

@[simp] theorem sameMemory_setRun (s : State) (r : RunState) : SameMemory s (s.setRun r) :=
  fun a => by rw [State.setRun_mem]

/-! ### What TRAP does, for each of its two kinds of vector -/

/-- R7: the halt vector. -/
theorem handleTrap_halt (s : State) : handleTrap 0x25#8 s = .halts s := if_pos rfl

/-- R120: every other vector. -/
theorem handleTrap_unsupported {vector8 : BitVec 8} (h : vector8 ≠ 0x25#8) (s : State) :
    handleTrap vector8 s = .error (.unsupportedTrap vector8) :=
  if_neg h

theorem exec_trap_halt (s : State) : exec (.trap 0x25#8) s = .next (s.setRun .halted) := by
  rw [exec_eq_retire, handle, handleTrap_halt, retire]

theorem exec_trap_unsupported {vector8 : BitVec 8} (h : vector8 ≠ 0x25#8) (s : State) :
    exec (.trap vector8) s = .next (s.setRun (.error (.unsupportedTrap vector8))) := by
  rw [exec_eq_retire, handle, handleTrap_unsupported h, retire, raiseError]

/-- Settles O28: either kind of vector changes `run` alone and takes it out of `Running`, so no Step follows. -/
theorem trapHaltsOrReports : Obligations.TrapHaltsOrReports := by
  intro vector8 s
  by_cases hv : vector8 = 0x25#8
  · subst hv
    exact ⟨_, exec_trap_halt s, fun _ => ⟨rfl, rfl⟩, fun hne => absurd rfl hne,
      step_ne_next (by simp), by simp, rfl, by simp⟩
  · exact ⟨_, exec_trap_unsupported hv s, fun heq => absurd heq hv, fun _ => ⟨rfl, rfl⟩,
      step_ne_next (by simp), by simp, rfl, by simp⟩

end Sys2Proof.Machine

/-! ## Proofs: registers, the sign class, the created state -/

namespace Sys2Proof.Machine

/-! ### The register write -/

/-- R13: a register write leaves every other register as it was. -/
theorem sameRegsExcept_writeReg (s : State) (i : RegIdx) (v : Word) : SameRegsExcept i s (s.writeReg i v) :=
  fun j hj => s.reg_writeReg_ne i j v hj

/-- Only the first of the ways a handler can go writes a register, and the end of the Step writes none. -/
theorem exec_keeps_or_writes_one_reg {i : Instr} {s t : State} (h : exec i s = .next t) :
    (t.x = s.x ∧ t.cond = s.cond) ∨ ∃ r v, t.x = (s.writeReg r v).x ∧ t.cond = r := by
  obtain ⟨dest, v, hh⟩ | hh | ⟨_, _, _, _, _, hh⟩ | ⟨_, hh⟩ | ⟨_, _, _, hh⟩ | ⟨_, _, _, _, _, hh⟩ :=
    handle_cases i s <;> (rw [exec_eq_retire, hh] at h; cases h)
  · exact .inr ⟨dest, v, afterContinue_x _ _, afterContinue_cond _ _⟩
  -- `Continue` with the state as it was, and with a branch's `pc`
  · exact .inl ⟨afterContinue_x _ _, afterContinue_cond _ _⟩
  · exact .inl ⟨afterContinue_x _ _, afterContinue_cond _ _⟩
  -- a halt, an error, a fault: `run` alone changes
  · exact .inl ⟨rfl, rfl⟩
  · exact .inl ⟨rfl, rfl⟩
  · exact .inl ⟨rfl, rfl⟩

/-- Settles O12: the write by its field lemmas, the instructions by the ways a handler can end. -/
theorem registerWriteIsTheOnlyRegisterChange : Obligations.RegisterWriteIsTheOnlyRegisterChange :=
  ⟨fun s i v => ⟨s.reg_writeReg_same i v, sameRegsExcept_writeReg s i v, rfl, rfl, rfl, rfl⟩,
    fun _ _ _ h => exec_keeps_or_writes_one_reg h⟩

/-! ### The sign class -/

theorem cls_eq_neg_iff {v : Word} : cls v = .neg ↔ v.getLsbD 15 = true := by
  unfold cls
  split_ifs with hneg hzero
  · exact iff_of_true rfl hneg
  · exact iff_of_false nofun hneg
  · exact iff_of_false nofun hneg

theorem cls_eq_zero_iff {v : Word} : cls v = .zero ↔ v = 0#16 := by
  unfold cls
  split_ifs with hneg hzero
  · refine iff_of_false nofun ?_
    rintro rfl
    exact absurd hneg (by decide)
  · exact iff_of_true rfl hzero
  · exact iff_of_false nofun hzero

/-- `Pos` is what the other two classes leave. -/
theorem cls_eq_pos_iff {v : Word} : cls v = .pos ↔ v.getLsbD 15 = false ∧ v ≠ 0#16 := by
  rw [← Bool.not_eq_true, ← cls_eq_neg_iff, Ne, ← cls_eq_zero_iff]
  cases cls v <;> decide

/-- Bit 15 is the sign of the two's complement value. -/
theorem getLsbD_15_iff_toInt_neg {v : Word} : v.getLsbD 15 = true ↔ v.toInt < 0 := by
  rw [← BitVec.msb_eq_getLsbD_last (x := v), BitVec.msb_eq_toInt, decide_eq_true_eq]

/-- A word has a positive two's complement value when it is neither negative nor zero. -/
theorem zero_lt_toInt_iff {v : Word} : 0 < v.toInt ↔ v.getLsbD 15 = false ∧ v ≠ 0#16 := by
  have hzero : v.toInt = 0 ↔ v = 0#16 := by rw [← BitVec.toInt_inj, BitVec.toInt_zero]
  rw [← Bool.not_eq_true, getLsbD_15_iff_toInt_neg, Ne, ← hzero]
  omega

/-- Settles O15: each class by its bit pattern, and the signed readings by the sign of the two's complement value. -/
theorem signClassifier : Obligations.SignClassifier := fun _ =>
  ⟨cls_eq_neg_iff, cls_eq_neg_iff.trans getLsbD_15_iff_toInt_neg, cls_eq_zero_iff, cls_eq_pos_iff,
    cls_eq_pos_iff.trans zero_lt_toInt_iff.symm⟩

/-! ### The created state -/

@[simp] theorem State.reset_reg (r : RegIdx) : State.reset.reg r = 0#16 := by
  simp [State.reg, State.reset]

@[simp] theorem State.reset_read (a : Word) : Memory.read State.reset.mem a = 0#16 := rfl

@[simp] theorem conditionClass_reset : conditionClass State.reset = .zero := by
  rw [conditionClass, State.reset_reg, cls_eq_zero_iff]

/-- Settles O42: every register and memory word reads 0, so the class under the condition source is Zero. -/
theorem resetState : Obligations.ResetState :=
  ⟨State.reset_reg, State.reset_read, rfl, rfl, rfl, conditionClass_reset⟩

end Sys2Proof.Machine

/-! ## Proofs: memory along a run -/

namespace Sys2Proof.Machine

/-! ### From one Step to a run -/

/-- R71 and R72: a Step that gives a next state began at `Running`, and is the instruction of the fetched word. -/
theorem step_next {s t : State} (h : step s = .next t) : s.run = .running ∧ exec (decode s.fetch) s = .next t := by
  by_cases hrun : s.run = .running
  · exact ⟨hrun, (if_pos hrun).symm.trans h⟩
  · exact absurd h (step_ne_next hrun t)

theorem StepsTo.preserves {P : State → Prop} (hstep : ∀ u v, step u = .next v → P u → P v) {n : Nat} {s t : State}
    (h : StepsTo n s t) : P s → P t := by
  induction h with
  | none => exact id
  | more hst _ ih => exact fun hs => ih (hstep _ _ hst hs)

/-- The induction over a run: what every Step keeps, every reachable state has. -/
theorem Reaches.preserves {P : State → Prop} (hstep : ∀ u v, step u = .next v → P u → P v) {s t : State}
    (h : Reaches s t) (hs : P s) : P t :=
  let ⟨_, hn⟩ := h
  hn.preserves hstep hs

/-! ### No write to memory -/

/-- R35: a register write, a branch's `pc` and a change of `run` are all that an instruction does, and each of them, like
the end of the Step, leaves memory alone. -/
theorem exec_keeps_mem {i : Instr} {s t : State} (h : exec i s = .next t) : t.mem = s.mem := by
  obtain ⟨_, _, hh⟩ | hh | ⟨_, _, _, _, _, hh⟩ | ⟨_, hh⟩ | ⟨_, _, _, hh⟩ | ⟨_, _, _, _, _, hh⟩ :=
    handle_cases i s <;> (rw [exec_eq_retire, hh] at h; cases h)
  -- the three that go on: with a register written, with the state as it was, with a branch's `pc`
  · exact afterContinue_mem _ _
  · exact afterContinue_mem _ _
  · exact afterContinue_mem _ _
  -- a halt, an error, a fault
  · exact s.setRun_mem _
  · exact s.setRun_mem _
  · exact s.setRun_mem _

theorem step_keeps_mem {s t : State} (h : step s = .next t) : t.mem = s.mem :=
  exec_keeps_mem (step_next h).2

theorem reaches_keeps_mem {s t : State} (h : Reaches s t) : t.mem = s.mem :=
  h.preserves (P := fun u => u.mem = s.mem) (fun _ _ hst hu => (step_keeps_mem hst).trans hu) rfl

/-- Settles O19: by the ways an instruction can end, then one Step, then induction over the Steps. -/
theorem noInstructionWritesMemory : Obligations.NoInstructionWritesMemory :=
  ⟨fun _ _ _ => exec_keeps_mem, fun _ _ => step_keeps_mem, fun _ _ => reaches_keeps_mem⟩

end Sys2Proof.Machine

/-! ## Proofs: the opcode map and the formats -/

namespace Sys2Proof

/-! ### What a word decodes to, by its opcode -/

section DecodeOfOpcode

variable {w : Word}

theorem decode_br (h : opcodeField w = 0b0000#4) :
    decode w = .br (w.getLsbD 11) (w.getLsbD 10) (w.getLsbD 9) (offset9Field w) := by
  simp only [decode, (opcodeField_eq_iff _ _).mp h, BitVec.reduceGetLsb]

theorem decode_add (h : opcodeField w = 0b0001#4) :
    decode w = if modeField w then .addImm (destField w) (src1Field w) (imm5Field w)
      else .addReg (destField w) (src1Field w) (src2Field w) := by
  simp only [decode, (opcodeField_eq_iff _ _).mp h, BitVec.reduceGetLsb]

theorem decode_ld (h : opcodeField w = 0b0010#4) : decode w = .ld (unusedField w) := by
  simp only [decode, (opcodeField_eq_iff _ _).mp h, BitVec.reduceGetLsb]

theorem decode_st (h : opcodeField w = 0b0011#4) : decode w = .st (unusedField w) := by
  simp only [decode, (opcodeField_eq_iff _ _).mp h, BitVec.reduceGetLsb]

theorem decode_jsr (h : opcodeField w = 0b0100#4) : decode w = .jsr (unusedField w) := by
  simp only [decode, (opcodeField_eq_iff _ _).mp h, BitVec.reduceGetLsb]

theorem decode_and (h : opcodeField w = 0b0101#4) :
    decode w = if modeField w then .andImm (destField w) (src1Field w) (imm5Field w)
      else .andReg (destField w) (src1Field w) (src2Field w) := by
  simp only [decode, (opcodeField_eq_iff _ _).mp h, BitVec.reduceGetLsb]

theorem decode_ldr (h : opcodeField w = 0b0110#4) : decode w = .ldr (unusedField w) := by
  simp only [decode, (opcodeField_eq_iff _ _).mp h, BitVec.reduceGetLsb]

theorem decode_str (h : opcodeField w = 0b0111#4) : decode w = .str (unusedField w) := by
  simp only [decode, (opcodeField_eq_iff _ _).mp h, BitVec.reduceGetLsb]

theorem decode_rti (h : opcodeField w = 0b1000#4) : decode w = .rti (unusedField w) := by
  simp only [decode, (opcodeField_eq_iff _ _).mp h, BitVec.reduceGetLsb]

theorem decode_not (h : opcodeField w = 0b1001#4) : decode w = decodeNot w := by
  simp only [decode, (opcodeField_eq_iff _ _).mp h, BitVec.reduceGetLsb]

theorem decode_ldi (h : opcodeField w = 0b1010#4) : decode w = .ldi (unusedField w) := by
  simp only [decode, (opcodeField_eq_iff _ _).mp h, BitVec.reduceGetLsb]

theorem decode_sti (h : opcodeField w = 0b1011#4) : decode w = .sti (unusedField w) := by
  simp only [decode, (opcodeField_eq_iff _ _).mp h, BitVec.reduceGetLsb]

theorem decode_jmpRet (h : opcodeField w = 0b1100#4) : decode w = .jmpRet (unusedField w) := by
  simp only [decode, (opcodeField_eq_iff _ _).mp h, BitVec.reduceGetLsb]

theorem decode_rsv (h : opcodeField w = 0b1101#4) : decode w = .rsv (unusedField w) := by
  simp only [decode, (opcodeField_eq_iff _ _).mp h, BitVec.reduceGetLsb]

theorem decode_lea (h : opcodeField w = 0b1110#4) : decode w = .lea (unusedField w) := by
  simp only [decode, (opcodeField_eq_iff _ _).mp h, BitVec.reduceGetLsb]

theorem decode_trap (h : opcodeField w = 0b1111#4) : decode w = .trap (vector8Field w) := by
  simp only [decode, (opcodeField_eq_iff _ _).mp h, BitVec.reduceGetLsb]

end DecodeOfOpcode

theorem decodeNot_opcode (w : Word) : (decodeNot w).opcode = 0b1001#4 := by
  unfold decodeNot
  split <;> rfl

/-- R51 and R59: the handler is the one of bits 15:12, in each of the sixteen rows of the map. -/
theorem decode_opcode (w : Word) : (decode w).opcode = opcodeField w := by
  refine ((opcodeField_eq_iff w _).mpr ?_).symm
  unfold decode
  split <;> rename_i h15 h14 h13 h12 <;> rw [h15, h14, h13, h12]
  -- ADD and AND in either form, opcode 1001 with any pad, the thirteen rows that have one form
  case h_2 | h_6 => split <;> simp only [Instr.opcode, BitVec.reduceGetLsb, and_self]
  case h_10 => simp only [decodeNot_opcode, BitVec.reduceGetLsb, and_self]
  all_goals simp only [Instr.opcode, BitVec.reduceGetLsb, and_self]

/-! ### Opcode 1001: the pad -/

theorem padField_bit (w : Word) {k : Nat} (hk : k < 6) : (padField w).getLsbD k = w.getLsbD k := by
  simp [padField, hk]

theorem padField_eq_ones_iff (w : Word) :
    padField w = 0b111111#6 ↔ ∀ k < 6, w.getLsbD k = true := by
  have hones : ∀ k < 6, (0b111111#6).getLsbD k = true := by decide
  constructor
  · intro h k hk
    rw [← padField_bit w hk, h, hones k hk]
  · intro h
    refine extract_eq 0 _ (fun k hk => ?_)
    rw [Nat.zero_add, h k hk, hones k hk]

theorem decodeNot_of_ones {w : Word} (h : padField w = 0b111111#6) :
    decodeNot w = .not (destField w) (src1Field w) := by
  simp only [decodeNot, (padField_eq_ones_iff w).mp h, Nat.reduceLT]

/-- The NOT_BADPAD rows, which split the illegal pads among them (R60). -/
def badPadRows (dest src : RegIdx) (pad : BitVec 6) : List Instr :=
  [.notBadPad0 dest src pad, .notBadPad10 dest src pad, .notBadPad110 dest src pad, .notBadPad1110 dest src pad,
    .notBadPad11110 dest src pad, .notBadPad111110 dest src pad]

theorem decodeNot_mem_badPadRows {w : Word} (h : padField w ≠ 0b111111#6) :
    decodeNot w ∈ badPadRows (destField w) (src1Field w) (padField w) := by
  unfold decodeNot
  split
  case h_7 h5 h4 h3 h2 h1 h0 =>
    refine absurd ((padField_eq_ones_iff w).mpr fun k hk => ?_) h
    interval_cases k <;> assumption
  all_goals simp [badPadRows]

theorem mnemonic_of_mem_badPadRows {i : Instr} {dest src : RegIdx} {pad : BitVec 6}
    (h : i ∈ badPadRows dest src pad) : i.row.mnemonic = "NOT_BADPAD" := by
  simp only [badPadRows, List.mem_cons, List.not_mem_nil, or_false] at h
  rcases h with rfl | rfl | rfl | rfl | rfl | rfl <;> rfl

/-- A word with opcode 1001 is written out by its fields (R53). -/
theorem notWord_fields {w : Word} (h : opcodeField w = 0b1001#4) :
    notWord (destField w) (src1Field w) (padField w) = w := by
  calc notWord (destField w) (src1Field w) (padField w)
      = w.extractLsb' 12 4 ++ w.extractLsb' 9 3 ++ w.extractLsb' 6 3 ++ w.extractLsb' 0 6 := by
        rw [show w.extractLsb' 12 4 = 0b1001#4 from h]; rfl
    _ = w.extractLsb' 0 16 := by
        rw [BitVec.extractLsb'_append_extractLsb'_eq_extractLsb' (by rfl),
          BitVec.extractLsb'_append_extractLsb'_eq_extractLsb' (by rfl),
          BitVec.extractLsb'_append_extractLsb'_eq_extractLsb' (by rfl)]
    _ = w := BitVec.extractLsb'_eq_self

end Sys2Proof

namespace Sys2Proof.Machine

theorem handle_of_mem_badPadRows {i : Instr} {dest src : RegIdx} {pad : BitVec 6}
    (h : i ∈ badPadRows dest src pad) (p : Params) (s : State) : handle p i s = handleNot dest src pad s := by
  simp only [badPadRows, List.mem_cons, List.not_mem_nil, or_false] at h
  rcases h with rfl | rfl | rfl | rfl | rfl | rfl <;> rfl

/-- R60 and R121: a word with opcode 1001 whose bits 5:0 are not all ones is `BadPadding` of the word itself. -/
theorem dispatchWord_badPad {w : Word} (hop : opcodeField w = 0b1001#4) (hpad : padField w ≠ 0b111111#6)
    (p : Params) (s : State) : dispatchWord p w s = .fatal (.badPadding w) := by
  rw [dispatchWord, decode_not hop, handle_of_mem_badPadRows (decodeNot_mem_badPadRows hpad),
    handleNot_bad _ _ hpad, notWord_fields hop]

theorem dispatchWord_trap {w : Word} (hop : opcodeField w = 0b1111#4) (p : Params) (s : State) :
    dispatchWord p w s =
      if vector8Field w = 0x25#8 then .halts s else .error (.unsupportedTrap (vector8Field w)) := by
  rw [dispatchWord, decode_trap hop, handle, handleTrap, haltVector]

/-- Settles O7: each row of the map by what its opcode decodes to; the two that raise by their handlers. -/
theorem opcodeMapAndFormats : Obligations.OpcodeMapAndFormats := fun w =>
  ⟨decode_opcode w, decode_br,
    fun h hmode => (decode_add h).trans (if_neg (ne_true_of_eq_false hmode)),
    fun h hmode => (decode_add h).trans (if_pos hmode),
    fun h hmode => (decode_and h).trans (if_neg (ne_true_of_eq_false hmode)),
    fun h hmode => (decode_and h).trans (if_pos hmode),
    fun h hpad => (decode_not h).trans (decodeNot_of_ones hpad),
    fun h hpad => ⟨by rw [decode_not h, mnemonic_of_mem_badPadRows (decodeNot_mem_badPadRows hpad)],
      dispatchWord_badPad h hpad⟩,
    fun h => ⟨decode_trap h, dispatchWord_trap h⟩,
    decode_ld, decode_st, decode_jsr, decode_ldr, decode_str, decode_rti, decode_ldi, decode_sti, decode_jmpRet,
    decode_rsv, decode_lea⟩

end Sys2Proof.Machine

/-! ## Proofs: the Bit-Field Reader -/

namespace Sys2Proof.Machine

/-! ### One read and one skip -/

theorem BitReader.read_of_le {n : Nat} {r : BitReader} (h : n ≤ r.remaining) :
    r.read n =
      .ok (r.word.extractLsb' (r.remaining - n) n, { word := r.word, remaining := r.remaining - n }) :=
  if_pos h

theorem BitReader.read_of_lt {n : Nat} {r : BitReader} (h : r.remaining < n) :
    r.read n = .error (.readerOverrun r.word) :=
  if_neg (Nat.not_le.mpr h)

theorem BitReader.skip_of_le {n : Nat} {r : BitReader} (h : n ≤ r.remaining) :
    r.skip n = .ok { word := r.word, remaining := r.remaining - n } :=
  if_pos h

theorem BitReader.skip_of_lt {n : Nat} {r : BitReader} (h : r.remaining < n) :
    r.skip n = .error (.readerOverrun r.word) :=
  if_neg (Nat.not_le.mpr h)

/-- R48: a skip is a read whose value is dropped. -/
theorem BitReader.skip_eq_read_map (n : Nat) (r : BitReader) : r.skip n = (r.read n).map (fun vr => vr.2) := by
  rcases Nat.lt_or_ge r.remaining n with h | h
  · rw [skip_of_lt h, read_of_lt h, Except.map]
  · rw [skip_of_le h, read_of_le h, Except.map]

/-! ### A sequence of reads -/

/-- R47: reads that start `k` bits below the top, of a total width that the word still has. -/
theorem BitReader.readAll_eq_bitSlices (w : Word) (widths : List Nat) {k : Nat} (h : k + widths.sum ≤ 16) :
    (BitReader.mk w (16 - k)).readAll widths =
      .ok (bitSlices w k widths, { word := w, remaining := 16 - (k + widths.sum) }) := by
  induction widths generalizing k with
  | nil => rfl
  | cons n rest ih =>
    rw [List.sum_cons] at h ⊢
    have hread : (BitReader.mk w (16 - k)).read n =
        .ok (w.extractLsb' (16 - k - n) n, { word := w, remaining := 16 - (k + n) }) := by
      rw [read_of_le (by show n ≤ 16 - k; omega), Nat.sub_sub]
    rw [readAll, hread, bitSlices]
    simp only [bind, Except.bind]
    rw [ih (by omega), BitVec.extractLsb'_toNat, Nat.shiftRight_eq_div_pow, Nat.add_assoc]

/-- Settles O9: a fresh reader is one that starts 0 bits below the top. -/
theorem readerReadsContiguousSlices : Obligations.ReaderReadsContiguousSlices := fun w widths h => by
  have hall := BitReader.readAll_eq_bitSlices w widths (k := 0) (by omega)
  rwa [Nat.zero_add] at hall

/-! ### What is read after a skip -/

/-- A field that lies in the low `k` bits depends on those bits only. -/
theorem extractLsb'_eq_of_mod_eq {w w' : Word} {k lo m : Nat} (hlo : lo + m ≤ k)
    (h : w.toNat % 2 ^ k = w'.toNat % 2 ^ k) : w.extractLsb' lo m = w'.extractLsb' lo m := by
  refine extract_eq lo _ (fun j hj => ?_)
  have hbit := congrArg (fun x => x.testBit (lo + j)) h
  simp only [Nat.testBit_mod_two_pow, show lo + j < k by omega, decide_true, Bool.true_and] at hbit
  rw [BitVec.getLsbD_extractLsb', decide_eq_true hj, Bool.true_and]
  exact hbit

theorem BitReader.skip_bind_read (n k m : Nat) (w : Word) (h : m ≤ k) :
    ((BitReader.mk w (k + n)).skip n >>= BitReader.read m) =
      .ok (w.extractLsb' (k - m) m, { word := w, remaining := k - m }) := by
  rw [skip_of_le (Nat.le_add_left n k), Nat.add_sub_cancel]
  exact read_of_le h

/-! ### The decoder by the reader -/

section Formats

variable (w : Word)

/-- The opcode takes the first four of the sixteen bits. -/
theorem BitReader.read_opcode : (BitReader.ofWord w).read 4 = .ok (opcodeField w, ⟨w, 12⟩) := rfl

theorem readBranch_after_opcode :
    readBranch ⟨w, 12⟩ = .ok (.br (w.extractLsb' 11 1 == 1#1) (w.extractLsb' 10 1 == 1#1) (w.extractLsb' 9 1 == 1#1)
      (offset9Field w)) := rfl

theorem readOperate_after_opcode (immForm : RegIdx → RegIdx → BitVec 5 → Instr)
    (regForm : RegIdx → RegIdx → RegIdx → Instr) :
    readOperate immForm regForm ⟨w, 12⟩ =
      .ok (if w.extractLsb' 5 1 = 1#1 then immForm (destField w) (src1Field w) (imm5Field w)
        else regForm (destField w) (src1Field w) (src2Field w)) := by
  rw [apply_ite Except.ok]
  rfl

theorem readNot_after_opcode :
    readNot ⟨w, 12⟩ = .ok (if padField w = 0b111111#6 then .not (destField w) (src1Field w)
      else badPadInstr (destField w) (src1Field w) (padField w)) := by
  rw [apply_ite Except.ok]
  rfl

theorem readTrap_after_opcode : readTrap ⟨w, 12⟩ = .ok (.trap (vector8Field w)) := rfl

end Formats

/-- R50: each format reads at most the twelve bits that the opcode leaves, so the decoder never overruns. -/
theorem decodeByReader_ok (w : Word) : ∃ i, decodeByReader w = .ok i := by
  rw [decodeByReader, BitReader.read_opcode]
  simp only [bind, Except.bind]
  split
  -- BR, ADD and AND, opcode 1001, TRAP; the placeholder formats read nothing
  case h_1 => exact ⟨_, readBranch_after_opcode w⟩
  case h_2 | h_6 => exact ⟨_, readOperate_after_opcode w _ _⟩
  case h_10 => exact ⟨_, readNot_after_opcode w⟩
  case h_16 => exact ⟨_, readTrap_after_opcode w⟩
  all_goals exact ⟨_, rfl⟩

/-- Settles O10: read and skip by their two cases, the skipped bits by the low bits that are read after them, no overrun
by the formats' widths. -/
theorem readerPreconditions : Obligations.ReaderPreconditions := by
  refine ⟨BitReader.skip_eq_read_map, fun n r h => ⟨BitReader.read_of_lt h, BitReader.skip_of_lt h⟩,
    fun n r h => ⟨_, BitReader.read_of_le h, BitReader.skip_of_le h⟩, fun n k m w w' hm hlow => ?_, fun w f h => ?_,
    fun r => ⟨?_, rfl⟩⟩
  · rw [BitReader.skip_bind_read n k m w hm, BitReader.skip_bind_read n k m w' hm,
      extractLsb'_eq_of_mod_eq (by omega) hlow]
    exact ⟨_, _, _, rfl, rfl⟩
  · obtain ⟨i, hi⟩ := decodeByReader_ok w
    exact nomatch hi.symm.trans h
  · exact BitVec.extractLsb'_toNat 0 r.remaining r.word

end Sys2Proof.Machine

/-! ## Proofs: the immediate form of ADD, and the reserved opcode -/

namespace Sys2Proof

/-! ### The fields that a row's mask fixes -/

theorem opcodeField_and (v w : Word) : opcodeField (v &&& w) = opcodeField v &&& opcodeField w :=
  BitVec.extractLsb'_and

theorem opcodeField_of_masked {w mask pattern : Word} (hmask : opcodeField mask = 0xF#4) (h : w &&& mask = pattern) :
    opcodeField w = opcodeField pattern := by
  rw [← h, opcodeField_and, hmask]
  exact BitVec.and_allOnes.symm

theorem modeField_of_masked {w mask pattern : Word} (hmask : modeField mask = true) (h : w &&& mask = pattern) :
    modeField w = modeField pattern := by
  have hand : modeField (w &&& mask) = (modeField w && modeField mask) := BitVec.getLsbD_and
  rw [← h, hand, hmask, Bool.and_true]

theorem decode_addImm_of_masked {w : Word} (h : w &&& 0xF020#16 = 0x1020#16) :
    decode w = .addImm (destField w) (src1Field w) (imm5Field w) :=
  (decode_add (opcodeField_of_masked (by decide) h)).trans (if_pos (modeField_of_masked (by decide) h))

end Sys2Proof

namespace Sys2Proof.Machine

/-! ### An instruction whose handler signals `Continue` -/

theorem exec_of_continues {i : Instr} {s s' : State} (h : handle params i s = .continues s') :
    exec i s = .next (afterContinue params s') := by
  rw [exec_eq_retire, h, retire]

theorem noErrorRecorded_afterContinue (p : Params) {s s' : State} (h : s'.run = s.run) :
    NoErrorRecorded s (afterContinue p s') := by
  obtain ⟨-, heq⟩ | ⟨-, heq⟩ := afterContinue_cases p s'
  · exact .inr (by rw [heq])
  · exact .inl (by rw [heq, ← h])

@[simp] theorem conditionClass_afterContinue (p : Params) (s : State) :
    conditionClass (afterContinue p s) = conditionClass s := by
  rw [conditionClass, afterContinue_cond, afterContinue_reg, conditionClass]

/-- R13 and R16: a write makes its own value the one that a branch tests. -/
@[simp] theorem conditionClass_writeReg (s : State) (i : RegIdx) (v : Word) :
    conditionClass (s.writeReg i v) = cls v := by
  rw [conditionClass, State.writeReg_cond, State.reg_writeReg_same]

/-- What the instructions that write a register have in common (41_alu.md): the result, the condition source, the frame,
and nothing raised. -/
theorem exec_of_writes {i : Instr} {s : State} {dest : RegIdx} {v : Word}
    (h : handle params i s = .continues (s.writeReg dest v)) :
    ∃ t, exec i s = .next t ∧ t.reg dest = v ∧ t.cond = dest ∧ conditionClass t = cls v ∧
      SameRegsExcept dest s t ∧ SameMemory s t ∧ NoErrorRecorded s t :=
  ⟨_, exec_of_continues h, by simp, by simp, by simp,
    fun r hr => (afterContinue_reg _ _ r).trans (sameRegsExcept_writeReg s dest v r hr),
    fun a => by simp, noErrorRecorded_afterContinue params (s.writeReg_run dest v)⟩

/-- What the instructions that do nothing have in common: the end of the Step, and that alone. -/
theorem exec_of_noop {i : Instr} {s : State} (h : handle params i s = .continues s) :
    ∃ t, exec i s = .next t ∧ SameRegs s t ∧ SameMemory s t ∧ NoErrorRecorded s t ∧
      (s.pc ≠ 0xFFFF#16 → t.pc = s.pc + 1#16 ∧ t.run = s.run) := by
  refine ⟨_, exec_of_continues h, ⟨afterContinue_reg _ s, afterContinue_cond _ s⟩, fun a => by simp,
    noErrorRecorded_afterContinue params rfl, fun hpc => ?_⟩
  obtain ⟨htop, -⟩ | ⟨-, heq⟩ := afterContinue_cases params s
  · exact absurd htop hpc
  · rw [heq]
    exact ⟨rfl, rfl⟩

/-! ### The immediate operand -/

/-- R54: an immediate is 0 to 31. -/
theorem toNat_imm5_le (imm5 : BitVec 5) : imm5.toNat ≤ 31 := Nat.le_of_lt_succ imm5.isLt

@[simp] theorem toNat_setWidth_imm5 (imm5 : BitVec 5) : (imm5.setWidth 16).toNat = imm5.toNat :=
  BitVec.toNat_setWidth_of_le (by decide)

theorem toInt_setWidth_imm5_nonneg (imm5 : BitVec 5) : 0 ≤ (imm5.setWidth 16).toInt := by
  have hle := toNat_imm5_le imm5
  rw [BitVec.toInt_pos_iff, toNat_setWidth_imm5]
  omega

/-- Settles O22: the words by the mask's opcode and mode bit, the operand by its zero-extension, the rest by the one
register write. -/
theorem addImmediateForm : Obligations.AddImmediateForm := by
  refine ⟨fun w => decode_addImm_of_masked, fun imm5 => ?_, fun dest src1 imm5 s => ?_⟩
  · rw [immOperand_params]
    exact ⟨toNat_setWidth_imm5 imm5, toNat_imm5_le imm5, toInt_setWidth_imm5_nonneg imm5⟩
  · have hwrite : handle params (.addImm dest src1 imm5) s =
        .continues (s.writeReg dest (s.reg src1 + imm5.setWidth 16)) := rfl
    obtain ⟨t, hexec, hreg, hcond, hclass, hframe⟩ := exec_of_writes hwrite
    refine ⟨t, hexec, hreg, ?_, hcond, hclass, hframe⟩
    rw [hreg, BitVec.toNat_add, toNat_setWidth_imm5]

/-- Settles O32: opcode 1101 is the reserved instruction, whose handler reads no parameter and does nothing. -/
theorem reservedOpcodeIsNoOp : Obligations.ReservedOpcodeIsNoOp :=
  ⟨fun _ h => ⟨_, decode_rsv h⟩, fun _ _ _ => rfl, fun _ _ => exec_of_noop rfl⟩

end Sys2Proof.Machine

/-! ## Proofs: the Step is total and deterministic -/

namespace Sys2Proof.Machine

/-- R71 and R72: from `Running` the Step is the instruction of the fetched word. -/
theorem step_eq_exec {s : State} (h : s.run = .running) : step s = exec (decode s.fetch) s :=
  if_pos h

/-- R105: the normative policy is `Nop`, so nothing is refused. -/
theorem handle_ne_refuses (i : Instr) (s : State) (mnemonic : String) : handle params i s ≠ .refuses mnemonic := by
  rcases handle_cases i s with ⟨_, _, hh⟩ | hh | ⟨_, _, _, _, _, hh⟩ | ⟨_, hh⟩ | ⟨_, _, _, hh⟩ | ⟨_, _, _, _, _, hh⟩
  -- three go on, then a halt, an error, a fault
  all_goals rw [hh]; exact nofun

/-- A refusal is the only end of a dispatch that leaves a Step without a next state: an error and a fault are recorded
in one (R74, R128). -/
theorem retire_eq_next {r : HandlerResult} (h : ∀ mnemonic, r ≠ .refuses mnemonic) (p : Params) (s : State) :
    ∃ t, retire p s r = .next t := by
  cases r with
  | continues s' => exact ⟨afterContinue p s', rfl⟩
  | halts s' => exact ⟨s'.setRun .halted, rfl⟩
  | error e => exact ⟨raiseError e s, rfl⟩
  | fatal f => exact ⟨raiseFatal f s, rfl⟩
  | refuses mnemonic => exact absurd rfl (h mnemonic)

theorem exec_eq_next (i : Instr) (s : State) : ∃ t, exec i s = .next t := by
  rw [exec_eq_retire]
  exact retire_eq_next (handle_ne_refuses i s) params s

/-- Settles O35: the instruction of the fetched word answers a next state, and `step` is a function. -/
theorem stepIsTotalAndDeterministic : Obligations.StepIsTotalAndDeterministic := by
  intro s hrun
  obtain ⟨t, hexec⟩ := exec_eq_next (decode s.fetch) s
  have hstep : step s = .next t := (step_eq_exec hrun).trans hexec
  refine ⟨t, hstep, fun u hu => ?_⟩
  exact Host.Outcome.next.inj (hu.symm.trans hstep)

end Sys2Proof.Machine

/-! ## Proofs: the register forms of ADD and AND, and the immediate form of AND -/

namespace Sys2Proof

theorem decode_addReg_of_masked {w : Word} (h : w &&& 0xF020#16 = 0x1000#16) :
    decode w = .addReg (destField w) (src1Field w) (src2Field w) :=
  (decode_add (opcodeField_of_masked (by decide) h)).trans
    (if_neg (ne_true_of_eq_false (modeField_of_masked (by decide) h)))

theorem decode_andReg_of_masked {w : Word} (h : w &&& 0xF020#16 = 0x5000#16) :
    decode w = .andReg (destField w) (src1Field w) (src2Field w) :=
  (decode_and (opcodeField_of_masked (by decide) h)).trans
    (if_neg (ne_true_of_eq_false (modeField_of_masked (by decide) h)))

theorem decode_andImm_of_masked {w : Word} (h : w &&& 0xF020#16 = 0x5020#16) :
    decode w = .andImm (destField w) (src1Field w) (imm5Field w) :=
  (decode_and (opcodeField_of_masked (by decide) h)).trans (if_pos (modeField_of_masked (by decide) h))

end Sys2Proof

namespace Sys2Proof.Machine

/-- Settles O21: the words by the mask's opcode and mode bit, the rest by the one register write. -/
theorem addRegisterForm : Obligations.AddRegisterForm := by
  refine ⟨fun w => decode_addReg_of_masked, fun dest src1 src2 s => ?_⟩
  have hwrite : handle params (.addReg dest src1 src2) s =
      .continues (s.writeReg dest (s.reg src1 + s.reg src2)) := rfl
  obtain ⟨t, hexec, hreg, hframe⟩ := exec_of_writes hwrite
  refine ⟨t, hexec, hreg, ?_, hframe⟩
  rw [hreg, BitVec.toNat_add]

/-- Settles O23: the words by the mask's opcode and mode bit, the rest by the one register write. -/
theorem andRegisterForm : Obligations.AndRegisterForm :=
  ⟨fun _ => decode_andReg_of_masked, fun _ _ _ _ => exec_of_writes rfl⟩

/-! ### Masking with the immediate operand -/

theorem toNat_and_imm5_le (v : Word) (imm5 : BitVec 5) : (v &&& imm5.setWidth 16).toNat ≤ 0x001F := by
  calc (v &&& imm5.setWidth 16).toNat
      ≤ (imm5.setWidth 16).toNat := by rw [BitVec.toNat_and]; exact Nat.and_le_right
    _ = imm5.toNat := toNat_setWidth_imm5 imm5
    _ ≤ 0x001F := toNat_imm5_le imm5

/-- Bit 15 of a conjunction is set only where both operands have it. -/
theorem cls_and_ne_neg (v : Word) {mask : Word} (hmask : 0 ≤ mask.toInt) : cls (v &&& mask) ≠ .neg := by
  rw [Ne, cls_eq_neg_iff, BitVec.getLsbD_and, Bool.and_eq_true, getLsbD_15_iff_toInt_neg (v := mask)]
  exact fun hbits => absurd hbits.2 (Int.not_lt.mpr hmask)

/-- Settles O24: the words by the mask's opcode and mode bit, the bound and the class by the zero-extended mask, the rest
by the one register write. -/
theorem andImmediateForm : Obligations.AndImmediateForm := by
  refine ⟨fun w => decode_andImm_of_masked, fun dest src1 imm5 s => ?_⟩
  have hwrite : handle params (.andImm dest src1 imm5) s =
      .continues (s.writeReg dest (s.reg src1 &&& imm5.setWidth 16)) := rfl
  obtain ⟨t, hexec, hreg, hcond, hclass, hframe⟩ := exec_of_writes hwrite
  refine ⟨t, hexec, hreg, ?_, hcond, hclass, ?_, hframe⟩
  · rw [hreg]
    exact toNat_and_imm5_le _ imm5
  · rw [hclass]
    exact cls_and_ne_neg _ (toInt_setWidth_imm5_nonneg imm5)

end Sys2Proof.Machine

/-! ## Proofs: the branch predicate -/

namespace Sys2Proof.Machine

theorem taken_iff (n z p : Bool) (c : SignClass) :
    taken n z p c = true ↔
      (n = true ∧ c = .neg) ∨ (z = true ∧ c = .zero) ∨ (p = true ∧ c = .pos) ∨
        (n = false ∧ z = false ∧ p = false) := by
  simp only [taken, Bool.or_eq_true, Bool.and_eq_true, beq_iff_eq, Bool.not_eq_true', or_assoc, and_assoc]

/-- `nzp = 000` (R96): nothing is requested. -/
@[simp] theorem taken_noRequest (c : SignClass) : taken false false false c = true :=
  (taken_iff ..).mpr (.inr (.inr (.inr ⟨rfl, rfl, rfl⟩)))

/-- `nzp = 111` (R96): whatever the class is, it is requested. -/
@[simp] theorem taken_allRequested (c : SignClass) : taken true true true c = true := by
  rw [taken_iff]
  cases c with
  | neg => exact .inl ⟨rfl, rfl⟩
  | zero => exact .inr (.inl ⟨rfl, rfl⟩)
  | pos => exact .inr (.inr (.inl ⟨rfl, rfl⟩))

/-! ### What BR does, by the predicate and under any parameters -/

theorem handleBr_taken (q : Params) {n z p : Bool} (offset9 : BitVec 9) {s : State}
    (h : taken n z p (conditionClass s) = true) :
    handleBr q n z p offset9 s = .continues (s.advancePc (branchOffset q offset9)) := if_pos h

theorem handleBr_untaken (q : Params) {n z p : Bool} (offset9 : BitVec 9) {s : State}
    (h : ¬ taken n z p (conditionClass s) = true) : handleBr q n z p offset9 s = .continues s := if_neg h

/-- Settles O16: the predicate by its four disjuncts, BR by the two cases of the predicate. -/
theorem branchPredicate : Obligations.BranchPredicate := by
  refine ⟨taken_iff, fun c => ⟨taken_noRequest c, taken_allRequested c⟩, fun q n z p offset9 s => ?_⟩
  change handleBr q n z p offset9 s = _
  split
  case isTrue h => exact handleBr_taken q offset9 h
  case isFalse h => exact handleBr_untaken q offset9 h

end Sys2Proof.Machine

/-! ## Proofs: the placeholder opcodes -/

namespace Sys2Proof

/-- The mask that each placeholder's row has: bits 15:12 and nothing else (R58). -/
theorem opcodeField_of_opcodeMask {w pattern : Word} (h : w &&& 0xF000#16 = pattern) :
    opcodeField w = opcodeField pattern :=
  opcodeField_of_masked (by decide) h

end Sys2Proof

namespace Sys2Proof.Machine

/-- R105: under the normative policy `Nop` a placeholder reads and writes nothing, whichever of the ten it is. -/
theorem handle_placeholder (u : BitVec 12) (s : State) :
    ∀ i ∈ [Instr.jmpRet u, .jsr u, .ld u, .ldi u, .ldr u, .lea u, .rti u, .st u, .sti u, .str u],
      handle params i s = .continues s := by
  simp only [List.forall_mem_cons, handle, handlePlaceholder_params, List.not_mem_nil, false_implies,
    implies_true, and_self]

/-- Settles O31: the words by the opcode that the mask keeps, the rest by the handler that does nothing. -/
theorem placeholdersAreNoOps : Obligations.PlaceholdersAreNoOps := by
  refine ⟨fun w => ?_, fun u s i hi => ?_⟩
  · exact ⟨fun h => ⟨_, decode_jmpRet (opcodeField_of_opcodeMask h)⟩,
      fun h => ⟨_, decode_jsr (opcodeField_of_opcodeMask h)⟩,
      fun h => ⟨_, decode_ld (opcodeField_of_opcodeMask h)⟩,
      fun h => ⟨_, decode_ldi (opcodeField_of_opcodeMask h)⟩,
      fun h => ⟨_, decode_ldr (opcodeField_of_opcodeMask h)⟩,
      fun h => ⟨_, decode_lea (opcodeField_of_opcodeMask h)⟩,
      fun h => ⟨_, decode_rti (opcodeField_of_opcodeMask h)⟩,
      fun h => ⟨_, decode_st (opcodeField_of_opcodeMask h)⟩,
      fun h => ⟨_, decode_sti (opcodeField_of_opcodeMask h)⟩,
      fun h => ⟨_, decode_str (opcodeField_of_opcodeMask h)⟩⟩
  · have hnoop : handle params i s = .continues s := handle_placeholder u s i hi
    exact ⟨hnoop, exec_of_noop hnoop⟩

end Sys2Proof.Machine

/-! ## Proofs: the bad pad -/

namespace Sys2Proof

/-! ### The pads of the NOT_BADPAD rows -/

/-- The all-ones pad shows the whole mask, so a row whose pattern has a 0 under its mask does not take it. -/
theorem ne_ones_of_padFits {mask pattern pad : BitVec 6} (hrow : mask ≠ pattern)
    (h : padFits mask pattern pad = true) : pad ≠ 0b111111#6 := by
  rintro rfl
  exact hrow (BitVec.allOnes_and.symm.trans ((padFits_iff _ _ _).mp h))

section BadPadRow

variable {i : Instr} {dest src : RegIdx} {pad : BitVec 6}

theorem pad_ne_ones_of_mem_badPadRows (h : i ∈ badPadRows dest src pad) (hwf : i.wf = true) : pad ≠ 0b111111#6 := by
  simp only [badPadRows, List.mem_cons, List.not_mem_nil, or_false] at h
  rcases h with rfl | rfl | rfl | rfl | rfl | rfl <;> exact ne_ones_of_padFits (by decide) hwf

theorem encode_of_mem_badPadRows (h : i ∈ badPadRows dest src pad) : encode i = notWord dest src pad := by
  simp only [badPadRows, List.mem_cons, List.not_mem_nil, or_false] at h
  rcases h with rfl | rfl | rfl | rfl | rfl | rfl <;> rfl

end BadPadRow

end Sys2Proof

namespace Sys2Proof.Machine

/-- R121: a well-formed NOT_BADPAD instruction is `BadPadding` of the word that it is encoded as. -/
theorem handle_wf_of_mem_badPadRows {i : Instr} {dest src : RegIdx} {pad : BitVec 6}
    (h : i ∈ badPadRows dest src pad) (hwf : i.wf = true) (p : Params) (s : State) :
    handle p i s = .fatal (.badPadding (encode i)) := by
  rw [handle_of_mem_badPadRows h, handleNot_bad _ _ (pad_ne_ones_of_mem_badPadRows h hwf), encode_of_mem_badPadRows h]

/-! ### An instruction whose handler raises a fatal fault -/

/-- R74: the fault is recorded in `run`, and nothing else changes. -/
theorem exec_of_fatal {i : Instr} {s : State} {f : FatalFault} (h : handle params i s = .fatal f) :
    exec i s = .next (s.setRun (.fatal f)) := by
  rw [exec_eq_retire, h, retire, raiseFatal]

/-- R121: a recorded fault takes `run` out of `Running`, so the instruction is not retried. -/
theorem exec_of_fatal_ends_run {i : Instr} {s : State} {f : FatalFault} (h : handle params i s = .fatal f) :
    ∃ t, exec i s = .next t ∧ t.run = .fatal f ∧ ∀ u, step t ≠ .next u :=
  ⟨_, exec_of_fatal h, s.setRun_run _, step_ne_next (by simp)⟩

/-- Settles O26: on a word by the fault of its dispatch, on a row by the pads that the row takes; either fault ends the
run. -/
theorem badPaddingRecordsTheWord : Obligations.BadPaddingRecordsTheWord :=
  ⟨fun _ s hop hpad => exec_of_fatal_ends_run (dispatchWord_badPad hop hpad params s),
    fun _ _ _ s _ hi hwf => exec_of_fatal_ends_run (handle_wf_of_mem_badPadRows hi hwf params s)⟩

end Sys2Proof.Machine

/-! ## Proofs: the round trip of the encoder and the decoder -/

namespace Sys2Proof

/-! ### The pads of opcode 1001 -/

/-- The rows of the illegal pads in the order of `badPadInstr`, which finds a pad's row by comparing it with the first
pad of the next. -/
theorem padFits_row_iff : ∀ pad : BitVec 6,
    (padFits 0b100000#6 0b000000#6 pad = true ↔ pad < 0b100000#6) ∧
    (padFits 0b110000#6 0b100000#6 pad = true ↔ ¬ pad < 0b100000#6 ∧ pad < 0b110000#6) ∧
    (padFits 0b111000#6 0b110000#6 pad = true ↔
      ¬ pad < 0b100000#6 ∧ ¬ pad < 0b110000#6 ∧ pad < 0b111000#6) ∧
    (padFits 0b111100#6 0b111000#6 pad = true ↔
      ¬ pad < 0b100000#6 ∧ ¬ pad < 0b110000#6 ∧ ¬ pad < 0b111000#6 ∧ pad < 0b111100#6) ∧
    (padFits 0b111110#6 0b111100#6 pad = true ↔
      ¬ pad < 0b100000#6 ∧ ¬ pad < 0b110000#6 ∧ ¬ pad < 0b111000#6 ∧ ¬ pad < 0b111100#6 ∧ pad < 0b111110#6) ∧
    (padFits 0b111111#6 0b111110#6 pad = true →
      ¬ pad < 0b100000#6 ∧ ¬ pad < 0b110000#6 ∧ ¬ pad < 0b111000#6 ∧ ¬ pad < 0b111100#6 ∧ ¬ pad < 0b111110#6) := by
  decide

/-- A pad belongs to one row only. -/
theorem badPadInstr_eq_of_wf {i : Instr} {dest src : RegIdx} {pad : BitVec 6} (h : i ∈ badPadRows dest src pad)
    (hwf : i.wf = true) : Machine.badPadInstr dest src pad = i := by
  obtain ⟨h0, h10, h110, h1110, h11110, h111110⟩ := padFits_row_iff pad
  simp only [badPadRows, List.mem_cons, List.not_mem_nil, or_false] at h
  rcases h with rfl | rfl | rfl | rfl | rfl | rfl
  · simp [Machine.badPadInstr, h0.mp hwf]
  · simp [Machine.badPadInstr, h10.mp hwf]
  · simp [Machine.badPadInstr, h110.mp hwf]
  · simp [Machine.badPadInstr, h1110.mp hwf]
  · simp [Machine.badPadInstr, h11110.mp hwf]
  · simp [Machine.badPadInstr, h111110 hwf]

/-- The bits that select a NOT_BADPAD row are those that its mask looks at. -/
theorem decodeNot_wf (w : Word) : (decodeNot w).wf = true := by
  unfold decodeNot
  simp only [← padField_bit w (show 0 < 6 by decide), ← padField_bit w (show 1 < 6 by decide),
    ← padField_bit w (show 2 < 6 by decide), ← padField_bit w (show 3 < 6 by decide),
    ← padField_bit w (show 4 < 6 by decide), ← padField_bit w (show 5 < 6 by decide)]
  generalize padField w = pad
  split <;> simp only [Instr.wf]
  all_goals decide +revert

/-- Whatever a word decodes to is well-formed: only a pad is checked, and opcode 1001 picks the row of its pad. -/
theorem decode_wf (w : Word) : (decode w).wf = true := by
  unfold decode
  split
  case h_2 | h_6 => split <;> rfl
  case h_10 => exact decodeNot_wf w
  all_goals rfl

/-! ### The encoding of an instruction -/

/-- The family of Laws/PerInstr.lean, for any instruction. -/
theorem row_fits_encode : ∀ i : Instr, Laws.MatchesRow.Statement i
  | .br n z p offset9 => Laws.MatchesRow.br n z p offset9
  | .addReg dest src1 src2 => Laws.MatchesRow.addReg dest src1 src2
  | .addImm dest src1 imm5 => Laws.MatchesRow.addImm dest src1 imm5
  | .ld unused => Laws.MatchesRow.ld unused
  | .st unused => Laws.MatchesRow.st unused
  | .jsr unused => Laws.MatchesRow.jsr unused
  | .andReg dest src1 src2 => Laws.MatchesRow.andReg dest src1 src2
  | .andImm dest src1 imm5 => Laws.MatchesRow.andImm dest src1 imm5
  | .ldr unused => Laws.MatchesRow.ldr unused
  | .str unused => Laws.MatchesRow.str unused
  | .rti unused => Laws.MatchesRow.rti unused
  | .not dest src => Laws.MatchesRow.not dest src
  | .notBadPad0 dest src pad => Laws.MatchesRow.notBadPad0 dest src pad
  | .notBadPad10 dest src pad => Laws.MatchesRow.notBadPad10 dest src pad
  | .notBadPad110 dest src pad => Laws.MatchesRow.notBadPad110 dest src pad
  | .notBadPad1110 dest src pad => Laws.MatchesRow.notBadPad1110 dest src pad
  | .notBadPad11110 dest src pad => Laws.MatchesRow.notBadPad11110 dest src pad
  | .notBadPad111110 dest src pad => Laws.MatchesRow.notBadPad111110 dest src pad
  | .ldi unused => Laws.MatchesRow.ldi unused
  | .sti unused => Laws.MatchesRow.sti unused
  | .jmpRet unused => Laws.MatchesRow.jmpRet unused
  | .rsv unused => Laws.MatchesRow.rsv unused
  | .lea unused => Laws.MatchesRow.lea unused
  | .trap vector8 => Laws.MatchesRow.trap vector8

theorem encode_masked {i : Instr} (hwf : i.wf = true) : encode i &&& i.row.mask = i.row.pattern :=
  (OpcodeRow.fits_iff _ _).mp (row_fits_encode i hwf)

theorem row_mem_opcodeTable (i : Instr) : i.row ∈ opcodeTable := by
  cases i <;> simp [Instr.row, opcodeTable]

/-- Every row of the table fixes the whole opcode. -/
theorem opcodeField_mask_of_mem : ∀ r ∈ opcodeTable, opcodeField r.mask = 0xF#4 := by decide

theorem opcodeField_row_pattern (i : Instr) : opcodeField i.row.pattern = i.opcode := by
  cases i <;> simp only [Instr.row, Instr.opcode, opcodeField, BitVec.reduceExtractLsb']

theorem opcodeField_encode {i : Instr} (hwf : i.wf = true) : opcodeField (encode i) = i.opcode :=
  (opcodeField_of_masked (opcodeField_mask_of_mem _ (row_mem_opcodeTable i)) (encode_masked hwf)).trans
    (opcodeField_row_pattern i)

/-- A NOT_BADPAD instruction is read back: the decoder and the term name the one row that the pad has. -/
theorem decodeNot_encode_of_mem_badPadRows {i : Instr} {dest src : RegIdx} {pad : BitVec 6}
    (h : i ∈ badPadRows dest src pad) (hwf : i.wf = true) : decodeNot (encode i) = i := by
  have hpad : padField (notWord dest src pad) ≠ 0b111111#6 := by
    rw [padField_notWord]
    exact pad_ne_ones_of_mem_badPadRows h hwf
  have hmem := decodeNot_mem_badPadRows hpad
  rw [destField_notWord, src1Field_notWord, padField_notWord] at hmem
  rw [encode_of_mem_badPadRows h, ← badPadInstr_eq_of_wf hmem (decodeNot_wf _), badPadInstr_eq_of_wf h hwf]

theorem decode_encode {i : Instr} (hwf : i.wf = true) : decode (encode i) = i := by
  have hop := opcodeField_encode hwf
  cases i with
  | br n z p offset9 =>
    rw [decode_br hop, encode, offset9Field_branchWord, branchWord_bit, branchWord_bit, branchWord_bit]
    rfl
  | addReg dest src1 src2 =>
    rw [decode_addReg_of_masked (encode_masked hwf), encode, destField_operateRegWord, src1Field_operateRegWord,
      src2Field_operateRegWord]
  | andReg dest src1 src2 =>
    rw [decode_andReg_of_masked (encode_masked hwf), encode, destField_operateRegWord, src1Field_operateRegWord,
      src2Field_operateRegWord]
  | addImm dest src1 imm5 =>
    rw [decode_addImm_of_masked (encode_masked hwf), encode, destField_operateImmWord, src1Field_operateImmWord,
      imm5Field_operateImmWord]
  | andImm dest src1 imm5 =>
    rw [decode_andImm_of_masked (encode_masked hwf), encode, destField_operateImmWord, src1Field_operateImmWord,
      imm5Field_operateImmWord]
  | not dest src =>
    rw [decode_not hop, encode, decodeNot_of_ones (padField_notWord dest src _), destField_notWord, src1Field_notWord]
  | notBadPad0 dest src pad | notBadPad10 dest src pad | notBadPad110 dest src pad | notBadPad1110 dest src pad
  | notBadPad11110 dest src pad | notBadPad111110 dest src pad =>
    exact (decode_not hop).trans
      (decodeNot_encode_of_mem_badPadRows (dest := dest) (src := src) (pad := pad) (by simp [badPadRows]) hwf)
  | trap vector8 => rw [decode_trap hop, encode, vector8Field_trapWord]
  | ld u => rw [decode_ld hop, encode, unusedField_placeholderWord]
  | st u => rw [decode_st hop, encode, unusedField_placeholderWord]
  | jsr u => rw [decode_jsr hop, encode, unusedField_placeholderWord]
  | ldr u => rw [decode_ldr hop, encode, unusedField_placeholderWord]
  | str u => rw [decode_str hop, encode, unusedField_placeholderWord]
  | rti u => rw [decode_rti hop, encode, unusedField_placeholderWord]
  | ldi u => rw [decode_ldi hop, encode, unusedField_placeholderWord]
  | sti u => rw [decode_sti hop, encode, unusedField_placeholderWord]
  | jmpRet u => rw [decode_jmpRet hop, encode, unusedField_placeholderWord]
  | rsv u => rw [decode_rsv hop, encode, unusedField_placeholderWord]
  | lea u => rw [decode_lea hop, encode, unusedField_placeholderWord]

/-- Settles O1: the opcode and the mode bit select the format, and each format's fields are read back. -/
theorem decodeEncodeRoundTrip : Obligations.DecodeEncodeRoundTrip := fun _ => decode_encode

/-- Settles O5: only opcode 1001 decodes to a term with a check, and its bits pick the row that passes it. -/
theorem decodedIsWellFormed : Obligations.DecodedIsWellFormed := decode_wf

end Sys2Proof

/-! ## Proofs: the bits that matter, and the rows of the table -/

namespace Sys2Proof

/-! ### A word put together again from its fields -/

theorem extractLsb'_one_eq_ofBool (w : Word) (k : Nat) : w.extractLsb' k 1 = BitVec.ofBool (w.getLsbD k) := by
  refine extract_eq k _ fun j hj => ?_
  obtain rfl : j = 0 := by omega
  cases w.getLsbD k <;> rfl

section Fields

variable {w : Word} {op : BitVec 4}

theorem placeholderWord_fields (w : Word) : placeholderWord (opcodeField w) (unusedField w) = w := by
  calc w.extractLsb' 12 4 ++ w.extractLsb' 0 12
      = w.extractLsb' 0 16 := BitVec.extractLsb'_append_extractLsb'_eq_extractLsb' (by rfl)
    _ = w := BitVec.extractLsb'_eq_self

theorem branchWord_fields (h : opcodeField w = 0b0000#4) :
    branchWord (w.getLsbD 11) (w.getLsbD 10) (w.getLsbD 9) (offset9Field w) = w := by
  calc branchWord (w.getLsbD 11) (w.getLsbD 10) (w.getLsbD 9) (offset9Field w)
      = w.extractLsb' 12 4 ++ w.extractLsb' 11 1 ++ w.extractLsb' 10 1 ++ w.extractLsb' 9 1 ++ w.extractLsb' 0 9 := by
        rw [extractLsb'_one_eq_ofBool, extractLsb'_one_eq_ofBool, extractLsb'_one_eq_ofBool,
          show w.extractLsb' 12 4 = 0b0000#4 from h]
        rfl
    _ = w.extractLsb' 0 16 := by
        iterate 4 rw [BitVec.extractLsb'_append_extractLsb'_eq_extractLsb' (by rfl)]
    _ = w := BitVec.extractLsb'_eq_self

theorem operateImmWord_fields (h : opcodeField w = op) (hmode : modeField w = true) :
    operateImmWord op (destField w) (src1Field w) (imm5Field w) = w := by
  calc operateImmWord op (destField w) (src1Field w) (imm5Field w)
      = w.extractLsb' 12 4 ++ w.extractLsb' 9 3 ++ w.extractLsb' 6 3 ++ w.extractLsb' 5 1 ++ w.extractLsb' 0 5 := by
        rw [extractLsb'_one_eq_ofBool, show w.getLsbD 5 = true from hmode, show w.extractLsb' 12 4 = op from h]
        rfl
    _ = w.extractLsb' 0 16 := by
        iterate 4 rw [BitVec.extractLsb'_append_extractLsb'_eq_extractLsb' (by rfl)]
    _ = w := BitVec.extractLsb'_eq_self

/-- The register form; the encoder writes the ignored bits as 00. -/
theorem operateRegWord_fields_masked (h : opcodeField w = op) (hmode : modeField w = false) :
    operateRegWord op (destField w) (src1Field w) (src2Field w) &&& 0xFFE7#16 = w &&& 0xFFE7#16 := by
  have hw : op ++ regBits (destField w) ++ regBits (src1Field w) ++ 0#1 ++ w.extractLsb' 3 2 ++
      regBits (src2Field w) = w := by
    calc op ++ regBits (destField w) ++ regBits (src1Field w) ++ 0#1 ++ w.extractLsb' 3 2 ++ regBits (src2Field w)
        = w.extractLsb' 12 4 ++ w.extractLsb' 9 3 ++ w.extractLsb' 6 3 ++ w.extractLsb' 5 1 ++ w.extractLsb' 3 2 ++
            w.extractLsb' 0 3 := by
          rw [extractLsb'_one_eq_ofBool, show w.getLsbD 5 = false from hmode, show w.extractLsb' 12 4 = op from h]
          rfl
      _ = w.extractLsb' 0 16 := by
          iterate 5 rw [BitVec.extractLsb'_append_extractLsb'_eq_extractLsb' (by rfl)]
      _ = w := BitVec.extractLsb'_eq_self
  have hmask : ∀ skipped : BitVec 2,
      (op ++ regBits (destField w) ++ regBits (src1Field w) ++ 0#1 ++ skipped ++ regBits (src2Field w)) &&&
        (0xF#4 ++ 0x7#3 ++ 0x7#3 ++ 1#1 ++ 0#2 ++ 0x7#3) =
      (op &&& 0xF#4) ++ (regBits (destField w) &&& 0x7#3) ++ (regBits (src1Field w) &&& 0x7#3) ++ (0#1 &&& 1#1) ++
        0#2 ++ (regBits (src2Field w) &&& 0x7#3) := fun skipped => by
    simp only [BitVec.and_append, BitVec.and_zero]
  conv_rhs => rw [← hw]
  exact (hmask 0#2).trans (hmask _).symm

/-- TRAP; the encoder writes the ignored bits as 0000. -/
theorem trapWord_fields_masked (h : opcodeField w = 0b1111#4) :
    trapWord (vector8Field w) &&& 0xF0FF#16 = w &&& 0xF0FF#16 := by
  have hw : 0b1111#4 ++ w.extractLsb' 8 4 ++ vector8Field w = w := by
    calc 0b1111#4 ++ w.extractLsb' 8 4 ++ vector8Field w
        = w.extractLsb' 12 4 ++ w.extractLsb' 8 4 ++ w.extractLsb' 0 8 := by
          rw [show w.extractLsb' 12 4 = 0b1111#4 from h]
          rfl
      _ = w.extractLsb' 0 16 := by
          iterate 2 rw [BitVec.extractLsb'_append_extractLsb'_eq_extractLsb' (by rfl)]
      _ = w := BitVec.extractLsb'_eq_self
  have hmask : ∀ ignored : BitVec 4, (0b1111#4 ++ ignored ++ vector8Field w) &&& (0xF#4 ++ 0#4 ++ 0xFF#8) =
      (0b1111#4 &&& 0xF#4) ++ 0#4 ++ (vector8Field w &&& 0xFF#8) := fun ignored => by
    simp only [BitVec.and_append, BitVec.and_zero]
  conv_rhs => rw [← hw]
  exact (hmask 0#4).trans (hmask _).symm

end Fields

theorem and_opcodeMask (w : Word) : w &&& 0xF000#16 = placeholderWord (opcodeField w) 0#12 := by
  conv_lhs => rw [← placeholderWord_fields w]
  exact placeholderWord_masked _ _

/-! ### Encoding what a word decodes to -/

theorem encode_decode_not {w : Word} (h : opcodeField w = 0b1001#4) : encode (decode w) = w := by
  rw [decode_not h]
  by_cases hpad : padField w = 0b111111#6
  · rw [decodeNot_of_ones hpad, encode, ← hpad, notWord_fields h]
  · rw [encode_of_mem_badPadRows (decodeNot_mem_badPadRows hpad), notWord_fields h]

theorem encode_decode_masked (w : Word) : encode (decode w) &&& careMask w = w &&& careMask w := by
  unfold careMask
  split_ifs with hop hmode htrap hfull
  · refine congrArg (· &&& 0xFFFF#16) ?_
    rcases hop with h | h
    · rw [decode_add h, if_pos hmode, encode, operateImmWord_fields h hmode]
    · rw [decode_and h, if_pos hmode, encode, operateImmWord_fields h hmode]
  · have hmode' : modeField w = false := Bool.eq_false_of_not_eq_true hmode
    rcases hop with h | h
    · rw [decode_add h, if_neg hmode, encode, operateRegWord_fields_masked h hmode']
    · rw [decode_and h, if_neg hmode, encode, operateRegWord_fields_masked h hmode']
  · rw [decode_trap htrap, encode, trapWord_fields_masked htrap]
  · refine congrArg (· &&& 0xFFFF#16) ?_
    rcases hfull with h | h
    · rw [decode_br h, encode, branchWord_fields h]
    · exact encode_decode_not h
  · rw [and_opcodeMask, and_opcodeMask, opcodeField_encode (decode_wf w), decode_opcode]

/-- Settles O2: by the formats, each of which keeps its fields; the second half is the round trip of O1. -/
theorem encodeDecodeKeepsCareBits : Obligations.EncodeDecodeKeepsCareBits :=
  fun w => ⟨encode_decode_masked w, decode_encode (decode_wf w)⟩

/-! ### Two words that agree in the bits that matter -/

/-- A field that the mask covers is the same in two words that agree under the mask. -/
theorem extractLsb'_eq_of_masked {w w' mask : Word} {lo n : Nat} (hmask : mask.extractLsb' lo n = BitVec.allOnes n)
    (h : w &&& mask = w' &&& mask) : w.extractLsb' lo n = w'.extractLsb' lo n := by
  have hfield := congrArg (BitVec.extractLsb' lo n) h
  rwa [BitVec.extractLsb'_and, BitVec.extractLsb'_and, hmask, BitVec.and_allOnes, BitVec.and_allOnes] at hfield

theorem opcodeField_careMask (w : Word) : opcodeField (careMask w) = 0xF#4 := by
  unfold careMask
  split_ifs <;> decide
/-- Whatever the word, its opcode matters. -/
theorem opcodeField_eq_of_agree {w w' : Word} (h : w &&& careMask w = w' &&& careMask w) :
    opcodeField w' = opcodeField w :=
  (extractLsb'_eq_of_masked (opcodeField_careMask w) h).symm

theorem modeField_eq_of_masked {w w' mask : Word} (hmask : modeField mask = true) (h : w &&& mask = w' &&& mask) :
    modeField w' = modeField w := by
  have hand : ∀ v : Word, modeField (v &&& mask) = modeField v := fun v => by
    rw [modeField, BitVec.getLsbD_and, show mask.getLsbD 5 = true from hmask, Bool.and_true, modeField]
  rw [← hand w', ← h, hand w]

/-- The register forms read the fields that their mask covers. -/
theorem registerFields_eq_of_masked {w w' : Word} (h : w &&& 0xFFE7#16 = w' &&& 0xFFE7#16) :
    destField w' = destField w ∧ src1Field w' = src1Field w ∧ src2Field w' = src2Field w :=
  ⟨congrArg BitVec.toFin (extractLsb'_eq_of_masked (lo := 9) (n := 3) (by decide) h).symm,
    congrArg BitVec.toFin (extractLsb'_eq_of_masked (lo := 6) (n := 3) (by decide) h).symm,
    congrArg BitVec.toFin (extractLsb'_eq_of_masked (lo := 0) (n := 3) (by decide) h).symm⟩

/-- Bits 11:0 of the placeholder and reserved opcodes are read by no handler (R58). -/
theorem handle_decode_of_unread {w w' : Word} (hop : opcodeField w' = opcodeField w)
    (hoperate : ¬ (opcodeField w = 0b0001#4 ∨ opcodeField w = 0b0101#4)) (htrap : ¬ opcodeField w = 0b1111#4)
    (hfull : ¬ (opcodeField w = 0b0000#4 ∨ opcodeField w = 0b1001#4)) (p : Params) (s : Machine.State) :
    Machine.handle p (decode w) s = Machine.handle p (decode w') s := by
  obtain ⟨h15, h14, h13, h12⟩ := (opcodeField_eq_iff w' _).mp hop
  simp only [opcodeField_bit, Nat.reduceLT, Nat.reduceAdd] at h15 h14 h13 h12
  simp only [opcodeField_eq_iff w, BitVec.reduceGetLsb] at hoperate htrap hfull
  unfold decode
  rw [h15, h14, h13, h12]
  split <;> rename_i b15 b14 b13 b12
  case h_1 => exact absurd (.inl ⟨b15, b14, b13, b12⟩) hfull
  case h_2 => exact absurd (.inl ⟨b15, b14, b13, b12⟩) hoperate
  case h_6 => exact absurd (.inr ⟨b15, b14, b13, b12⟩) hoperate
  case h_10 => exact absurd (.inr ⟨b15, b14, b13, b12⟩) hfull
  case h_16 => exact absurd ⟨b15, b14, b13, b12⟩ htrap
  all_goals rfl

theorem and_fullMask (w : Word) : w &&& 0xFFFF#16 = w := BitVec.and_allOnes

theorem handle_decode_of_agree {w w' : Word} (h : w &&& careMask w = w' &&& careMask w) (p : Params)
    (s : Machine.State) : Machine.handle p (decode w) s = Machine.handle p (decode w') s := by
  have hop := opcodeField_eq_of_agree h
  unfold careMask at h
  split_ifs at h with hoperate hmode htrap hfull
  · rw [and_fullMask, and_fullMask] at h
    rw [h]
  · obtain ⟨hdest, hsrc1, hsrc2⟩ := registerFields_eq_of_masked h
    have hmode' := modeField_eq_of_masked (by decide) h
    rcases hoperate with hw | hw
    · rw [decode_add hw, decode_add (hop.trans hw), hmode', if_neg hmode, if_neg hmode, hdest, hsrc1, hsrc2]
    · rw [decode_and hw, decode_and (hop.trans hw), hmode', if_neg hmode, if_neg hmode, hdest, hsrc1, hsrc2]
  · have hvector : vector8Field w = vector8Field w' := extractLsb'_eq_of_masked (by decide) h
    rw [decode_trap htrap, decode_trap (hop.trans htrap), hvector]
  · rw [and_fullMask, and_fullMask] at h
    rw [h]
  · exact handle_decode_of_unread hop hoperate htrap hfull p s

/-- Settles O3: by the mask of each format, two words that agree have the same handler on the same fields. -/
theorem dontCareBitsNeverMatter : Obligations.DontCareBitsNeverMatter := by
  intro w w' s h
  refine ⟨fun p => handle_decode_of_agree h p s, ?_⟩
  rw [Machine.exec_eq_retire, Machine.exec_eq_retire, handle_decode_of_agree h]

/-! ### The rows of the table -/

/-- A row looks only at bits that matter. -/
theorem careMask_and_row_mask (w : Word) : careMask w &&& (decode w).row.mask = (decode w).row.mask := by
  unfold careMask
  split_ifs with hoperate hmode htrap hfull
  · exact BitVec.allOnes_and
  · rcases hoperate with h | h
    · rw [decode_add h, if_neg hmode]
      exact (by decide : 0xFFE7#16 &&& 0xF020#16 = 0xF020#16)
    · rw [decode_and h, if_neg hmode]
      exact (by decide : 0xFFE7#16 &&& 0xF020#16 = 0xF020#16)
  · rw [decode_trap htrap]
    exact (by decide : 0xF0FF#16 &&& 0xF000#16 = 0xF000#16)
  · exact BitVec.allOnes_and
  · rw [← decode_opcode w] at hoperate htrap hfull
    cases hi : decode w <;> simp_all [Instr.opcode, Instr.row]

theorem decode_row_fits (w : Word) : (decode w).row.fits w = true := by
  rw [OpcodeRow.fits_iff]
  calc w &&& (decode w).row.mask
      = w &&& careMask w &&& (decode w).row.mask := by rw [BitVec.and_assoc, careMask_and_row_mask]
    _ = encode (decode w) &&& careMask w &&& (decode w).row.mask := by rw [encode_decode_masked]
    _ = encode (decode w) &&& (decode w).row.mask := by rw [BitVec.and_assoc, careMask_and_row_mask]
    _ = (decode w).row.pattern := encode_masked (decode_wf w)

/-- Two different rows disagree in a bit that both look at. -/
theorem opcodeTable_exclusive : ∀ r ∈ opcodeTable, ∀ r' ∈ opcodeTable,
    r.pattern &&& r'.mask = r'.pattern &&& r.mask → r = r' := by decide

theorem opcodeTable_nodup : opcodeTable.Nodup := by decide

theorem row_eq_of_fits {r r' : OpcodeRow} {w : Word} (hr : r ∈ opcodeTable) (hr' : r' ∈ opcodeTable)
    (h : r.fits w = true) (h' : r'.fits w = true) : r = r' := by
  refine opcodeTable_exclusive r hr r' hr' ?_
  rw [← (OpcodeRow.fits_iff r w).mp h, ← (OpcodeRow.fits_iff r' w).mp h', BitVec.and_assoc, BitVec.and_assoc,
    BitVec.and_comm r.mask]

theorem filter_fits_eq (w : Word) : opcodeTable.filter (fun r => r.fits w) = [(decode w).row] := by
  have hrow := row_mem_opcodeTable (decode w)
  have hfits : ∀ r ∈ opcodeTable, r.fits w = (r == (decode w).row) := fun r hr => by
    rw [Bool.eq_iff_iff, beq_iff_eq]
    exact ⟨fun h => row_eq_of_fits hr hrow h (decode_row_fits w), fun h => h ▸ decode_row_fits w⟩
  rw [List.filter_congr hfits, List.filter_beq, List.count_eq_one_of_mem opcodeTable_nodup hrow]
  rfl

end Sys2Proof

namespace Sys2Proof.Machine

/-- R124: under any parameters the only error that a handler raises is the unsupported trap. -/
theorem handle_eq_error {p : Params} {i : Instr} {s : State} {e : RunError} (h : handle p i s = .error e) :
    ∃ v, e = .unsupportedTrap v := by
  cases i with
  | trap v =>
    simp only [handle, handleTrap] at h
    split at h <;> cases h
    exact ⟨v, rfl⟩
  | br n z pos offset9 =>
    simp only [handle, handleBr] at h
    split at h <;> cases h
  | notBadPad0 d a pad | notBadPad10 d a pad | notBadPad110 d a pad | notBadPad1110 d a pad
  | notBadPad11110 d a pad | notBadPad111110 d a pad =>
    simp only [handle, handleNot] at h
    split at h <;> cases h
  | addReg d a b | addImm d a k | andReg d a b | andImm d a k | not d a | rsv u => cases h
  | ld u | st u | jsr u | ldr u | str u | rti u | ldi u | sti u | jmpRet u | lea u =>
    simp only [handle, handlePlaceholder] at h
    split at h <;> cases h

/-- Settles O4: the decoded instruction's row fits, and no two rows fit one word. -/
theorem everyWordHasExactlyOneRow : Obligations.EveryWordHasExactlyOneRow := by
  refine fun w => ⟨filter_fits_eq w, fun p s c h => ?_⟩
  obtain ⟨v, hv⟩ := handle_eq_error h
  cases hv

end Sys2Proof.Machine

/-! ## Proofs: the illegal words -/

namespace Sys2Proof

/-! ### An illegal word, by its fields and as R60 writes it -/

theorem mnemonic_eq_badPad_iff (w : Word) :
    (decode w).row.mnemonic = "NOT_BADPAD" ↔ opcodeField w = 0b1001#4 ∧ padField w ≠ 0b111111#6 := by
  constructor
  · intro h
    have hop : opcodeField w = 0b1001#4 := by
      rw [← decode_opcode]
      generalize decode w = i at h
      cases i <;> simp_all [Instr.row, Instr.opcode]
    refine ⟨hop, fun hpad => ?_⟩
    rw [decode_not hop, decodeNot_of_ones hpad, Instr.row] at h
    exact absurd h (by decide)
  · rintro ⟨hop, hpad⟩
    rw [decode_not hop, mnemonic_of_mem_badPadRows (decodeNot_mem_badPadRows hpad)]

/-- The shifts of R60 put the register numbers and the pad where the NOT format has them. -/
theorem illegalWord_eq_notWord (d s : RegIdx) (t : BitVec 6) : Machine.illegalWord d s t = notWord d s t := by
  have hdest : ∀ d : RegIdx, BitVec.ofNat 16 d.val <<< 9 = 0#4 ++ regBits d ++ 0#3 ++ 0#6 := by decide
  have hsrc : ∀ s : RegIdx, BitVec.ofNat 16 s.val <<< 6 = 0#4 ++ 0#3 ++ regBits s ++ 0#6 := by decide
  have hpad : ∀ t : BitVec 6, t.setWidth 16 = 0#4 ++ 0#3 ++ 0#3 ++ t := by decide
  calc Machine.illegalWord d s t
      = (0b1001#4 ++ 0#3 ++ 0#3 ++ 0#6) ||| (0#4 ++ regBits d ++ 0#3 ++ 0#6) ||| (0#4 ++ 0#3 ++ regBits s ++ 0#6) |||
          (0#4 ++ 0#3 ++ 0#3 ++ t) := by rw [← hdest, ← hsrc, ← hpad]; rfl
    _ = notWord d s t := by
        simp only [BitVec.or_append, BitVec.or_zero, BitVec.zero_or]
        rfl

theorem opcodeField_notWord (d s : RegIdx) (t : BitVec 6) : opcodeField (notWord d s t) = 0b1001#4 :=
  extract_eq 12 _ fun k hk => by
    rw [notWord_bit, if_neg (by omega), if_neg (by omega), if_neg (by omega), Nat.add_sub_cancel_left]

theorem notWord_injective {d s d' s' : RegIdx} {t t' : BitVec 6} (h : notWord d s t = notWord d' s' t') :
    d = d' ∧ s = s' ∧ t = t' := by
  have hdest := congrArg destField h
  have hsrc := congrArg src1Field h
  have hpad := congrArg padField h
  rw [destField_notWord, destField_notWord] at hdest
  rw [src1Field_notWord, src1Field_notWord] at hsrc
  rw [padField_notWord, padField_notWord] at hpad
  exact ⟨hdest, hsrc, hpad⟩

theorem badPad_iff_exists_notWord (w : Word) :
    opcodeField w = 0b1001#4 ∧ padField w ≠ 0b111111#6 ↔ ∃ d s t, t ≠ 0b111111#6 ∧ w = notWord d s t := by
  constructor
  · rintro ⟨hop, hpad⟩
    exact ⟨_, _, _, hpad, (notWord_fields hop).symm⟩
  · rintro ⟨d, s, t, ht, rfl⟩
    exact ⟨opcodeField_notWord d s t, by rwa [padField_notWord]⟩

/-- Settles O8: the illegal words are those of the NOT format, whose fields are read back and whose fault changes `run`
alone. -/
theorem illegalWordsAreExactlyBadPads : Obligations.IllegalWordsAreExactlyBadPads := by
  unfold Obligations.IllegalWordsAreExactlyBadPads
  simp only [illegalWord_eq_notWord]
  refine ⟨fun w => (mnemonic_eq_badPad_iff w).trans (badPad_iff_exists_notWord w),
    fun d s t d' s' t' => notWord_injective, fun d src t s ht => ?_⟩
  have hpad : padField (notWord d src t) ≠ 0b111111#6 := by rwa [padField_notWord]
  exact Machine.exec_of_fatal (Machine.dispatchWord_badPad (opcodeField_notWord d src t) hpad Machine.params s)

end Sys2Proof

/-! ## Proofs: the decoder by the reader is the decoder -/

namespace Sys2Proof.Machine

theorem decodeNot_eq_ite (w : Word) :
    decodeNot w = if padField w = 0b111111#6 then .not (destField w) (src1Field w)
      else badPadInstr (destField w) (src1Field w) (padField w) := by
  split
  case isTrue h => exact decodeNot_of_ones h
  case isFalse h => exact (badPadInstr_eq_of_wf (decodeNot_mem_badPadRows h) (decodeNot_wf w)).symm

theorem extractLsb'_one_beq (w : Word) (k : Nat) : (w.extractLsb' k 1 == 1#1) = w.getLsbD k := by
  rw [extractLsb'_one_eq_ofBool]
  cases w.getLsbD k <;> rfl

theorem decodeByReader_eq (w : Word) : decodeByReader w = .ok (decode w) := by
  have hmode : w.extractLsb' 5 1 = 1#1 ↔ modeField w = true := by
    rw [← beq_iff_eq, extractLsb'_one_beq, modeField]
  rw [decodeByReader, BitReader.read_opcode]
  simp only [bind, Except.bind, opcodeField_bit, Nat.reduceLT, Nat.reduceAdd]
  split <;> rename_i h15 h14 h13 h12
  case h_1 => simp only [readBranch_after_opcode, extractLsb'_one_beq, decode, h15, h14, h13, h12]
  case h_2 | h_6 => simp only [readOperate_after_opcode, hmode, decode, h15, h14, h13, h12]
  case h_10 => simp only [readNot_after_opcode, decodeNot_eq_ite, decode, h15, h14, h13, h12]
  case h_16 => simp only [readTrap_after_opcode, decode, h15, h14, h13, h12]
  all_goals simp only [decode, h15, h14, h13, h12]

/-- Settles O11: by the opcode, and then each format's reads are its fixed positions. -/
theorem readerDecoderAgrees : Obligations.ReaderDecoderAgrees := decodeByReader_eq

/-! ### Sample words -/

/-- Settles O6: closed words, by evaluation. -/
theorem sampleWordsDecode : Obligations.SampleWordsDecode := by
  unfold Obligations.SampleWordsDecode
  decide

end Sys2Proof.Machine

/-! ## Proofs: what a dispatch and a Step can do -/

namespace Sys2Proof.Machine

/-! ### The ways a dispatch ends, on any word -/

/-- What a handler that signals `Continue` leaves as it was: memory, `run`, and `pc` unless it is a taken branch's. -/
structure ContinueFrame (i : Instr) (s s' : State) : Prop where
  mem : s'.mem = s.mem
  run : s'.run = s.run
  pc : s'.pc = s.pc ∨ ∃ n z p off, i = .br n z p off ∧ taken n z p (conditionClass s) = true ∧
    s'.pc = s.pc + BitVec.ofNat 16 off.toNat

theorem handle_br_frame {n z p : Bool} {off : BitVec 9} {s s' : State}
    (h : handle params (.br n z p off) s = .continues s') : ContinueFrame (.br n z p off) s s' := by
  by_cases htaken : taken n z p (conditionClass s) = true
  · cases (handleBr_taken params off htaken).symm.trans h
    refine ⟨rfl, rfl, .inr ⟨n, z, p, off, rfl, htaken, ?_⟩⟩
    rw [State.advancePc_pc, branchOffset_params, BitVec.ofNat_toNat]
  · cases (handleBr_untaken params off htaken).symm.trans h
    exact ⟨rfl, rfl, .inl rfl⟩

theorem handle_continues_frame {i : Instr} {s s' : State} (h : handle params i s = .continues s') :
    ContinueFrame i s s' := by
  obtain ⟨_, _, hh⟩ | hh | ⟨_, _, _, _, rfl, _⟩ | ⟨_, hh⟩ | ⟨_, _, _, hh⟩ | ⟨_, _, _, _, _, hh⟩ := handle_cases i s
  · cases hh.symm.trans h
    exact ⟨rfl, rfl, .inl rfl⟩
  · cases hh.symm.trans h
    exact ⟨rfl, rfl, .inl rfl⟩
  · exact handle_br_frame h
  -- a halt, an error, a fault
  · exact nomatch hh.symm.trans h
  · exact nomatch hh.symm.trans h
  · exact nomatch hh.symm.trans h

/-- A word that is encoded as an illegal one is that illegal word. -/
theorem badPad_of_encode_decode {w : Word} {dest src : RegIdx} {pad : BitVec 6} (hpad : pad ≠ 0b111111#6)
    (h : encode (decode w) = notWord dest src pad) :
    opcodeField w = 0b1001#4 ∧ padField w ≠ 0b111111#6 ∧ notWord dest src pad = w := by
  have hop : opcodeField w = 0b1001#4 := by
    rw [← decode_opcode, ← opcodeField_encode (decode_wf w), h, opcodeField_notWord]
  have hw : notWord dest src pad = w := h.symm.trans (encode_decode_not hop)
  exact ⟨hop, by rwa [← hw, padField_notWord], hw⟩

/-- R70, on any word: it goes on, TRAP x25 halts, another TRAP is an error, an opcode 1001 word with a bad pad is a
fatal fault. -/
theorem dispatchWord_cases (w : Word) (s : State) :
    (∃ s', dispatchWord params w s = .continues s' ∧ ContinueFrame (decode w) s s') ∨
    (decode w = .trap 0x25#8 ∧ dispatchWord params w s = .halts s) ∨
    (∃ v, v ≠ 0x25#8 ∧ decode w = .trap v ∧ dispatchWord params w s = .error (.unsupportedTrap v)) ∨
    (opcodeField w = 0b1001#4 ∧ padField w ≠ 0b111111#6 ∧ dispatchWord params w s = .fatal (.badPadding w)) := by
  obtain ⟨_, _, hh⟩ | hh | ⟨_, _, _, _, _, hh⟩ | ⟨htrap, hh⟩ | ⟨v, hv, htrap, hh⟩ | ⟨_, _, _, hpad, henc, hh⟩ :=
    handle_cases (decode w) s
  -- the three that go on: with a register written, with the state as it was, with a branch's `pc`
  · exact .inl ⟨_, hh, handle_continues_frame hh⟩
  · exact .inl ⟨_, hh, handle_continues_frame hh⟩
  · exact .inl ⟨_, hh, handle_continues_frame hh⟩
  · exact .inr (.inl ⟨htrap, hh⟩)
  · exact .inr (.inr (.inl ⟨v, hv, htrap, hh⟩))
  · obtain ⟨hop, hpadw, hw⟩ := badPad_of_encode_decode hpad henc
    rw [hw] at hh
    exact .inr (.inr (.inr ⟨hop, hpadw, hh⟩))

/-! ### The ways a Step ends -/

/-- R72 to R74: everything that a Step which gives a next state can have done. -/
theorem step_cases {s t : State} (h : step s = .next t) :
    (∃ s', ContinueFrame (decode s.fetch) s s' ∧ t = afterContinue params s') ∨
    (decode s.fetch = .trap 0x25#8 ∧ t = s.setRun .halted) ∨
    (∃ v, v ≠ 0x25#8 ∧ decode s.fetch = .trap v ∧ t = s.setRun (.error (.unsupportedTrap v))) ∨
    (opcodeField s.fetch = 0b1001#4 ∧ padField s.fetch ≠ 0b111111#6 ∧
      t = s.setRun (.fatal (.badPadding s.fetch))) := by
  have hexec := (step_next h).2
  rw [exec_eq_retire] at hexec
  change retire params s (dispatchWord params s.fetch s) = .next t at hexec
  obtain ⟨s', hd, hframe⟩ | ⟨htrap, hd⟩ | ⟨v, hv, htrap, hd⟩ | ⟨hop, hpad, hd⟩ := dispatchWord_cases s.fetch s
  all_goals rw [hd] at hexec; cases hexec
  · exact .inl ⟨s', hframe, rfl⟩
  · exact .inr (.inl ⟨htrap, rfl⟩)
  · exact .inr (.inr (.inl ⟨v, hv, htrap, rfl⟩))
  · exact .inr (.inr (.inr ⟨hop, hpad, rfl⟩))

/-- A Step that goes on is still running, or it has stopped at the top of the address space (R73). -/
theorem afterContinue_run {s s' : State} (hrun : s.run = .running) (h : s'.run = s.run) :
    ((afterContinue params s').run = .running ∧ (afterContinue params s').pc = s'.pc + 1#16) ∨
    ((afterContinue params s').run = .halted ∧ (afterContinue params s').pc = 0xFFFF#16 ∧ s'.pc = 0xFFFF#16) := by
  obtain ⟨htop, heq⟩ | ⟨-, heq⟩ := afterContinue_cases params s'
  · exact .inr ⟨by rw [heq], by rw [heq]; exact htop, htop⟩
  · exact .inl ⟨by rw [heq]; exact h.trans hrun, by rw [heq]⟩

/-! ### The invariant -/

theorem endExplained_of_running {s : State} (h : s.run = .running) : EndExplained s := by
  rw [EndExplained, h]
  trivial

/-- R129: the word at `pc` explains how the run has ended, whatever the run was like before. -/
theorem step_endExplained {s t : State} (h : step s = .next t) : EndExplained t := by
  obtain ⟨s', hframe, rfl⟩ | ⟨htrap, rfl⟩ | ⟨v, hv, htrap, rfl⟩ | ⟨hop, hpad, rfl⟩ := step_cases h
  · obtain ⟨hrun, -⟩ | ⟨hrun, hpc, -⟩ := afterContinue_run (step_next h).1 hframe.run
    · exact endExplained_of_running hrun
    · rw [EndExplained, hrun]
      exact .inl hpc
  · exact .inr htrap
  · exact ⟨v, hv, htrap, rfl⟩
  · exact ⟨hop, hpad, rfl⟩

theorem step_keeps_inv {s t : State} (hs : Inv s) (h : step s = .next t) : Inv t := by
  refine ⟨?_, step_endExplained h⟩
  rw [step_keeps_mem h]
  exact hs.1

/-- Settles O44: no Step writes memory, and each of the ways a Step ends explains itself. -/
theorem stepKeepsInvariant : Obligations.StepKeepsInvariant := fun _ _ => step_keeps_inv

/-- Settles O43: nothing is listed, and `run` is `Running`. -/
theorem resetSatisfiesInvariant : Obligations.ResetSatisfiesInvariant :=
  ⟨State.reset_mem_wf, endExplained_of_running rfl⟩

/-- A loaded state is the created one but for `pc` and the words written, and so still `Running`. -/
theorem inv_of_loaded {s : State} (h : Loaded s) : Inv s := by
  obtain ⟨pc0, words, -, rfl⟩ := h
  exact ⟨Memory.writeAll_wf pc0 words State.reset_mem_wf, endExplained_of_running rfl⟩

/-- Settles O45: the invariant holds after the load, and every Step keeps it. -/
theorem loadedRunsKeepInvariant : Obligations.LoadedRunsKeepInvariant :=
  fun _ _ hs h => h.preserves (fun _ _ hstep hu => step_keeps_inv hu hstep) (inv_of_loaded hs)

/-! ### Errors and faults -/

/-- Settles O38: a Step that goes on is running or halted, a halt is a halt, and the rest write `run` only. -/
theorem errorsArePrecise : Obligations.ErrorsArePrecise := by
  intro s t h hend
  obtain ⟨s', hframe, rfl⟩ | ⟨-, rfl⟩ | ⟨_, -, -, rfl⟩ | ⟨-, -, rfl⟩ := step_cases h
  · obtain ⟨hrun, -⟩ | ⟨hrun, -⟩ := afterContinue_run (step_next h).1 hframe.run <;> simp [hrun] at hend
  · simp at hend
  · rfl
  · rfl

/-- Settles O39: by the ways a Step ends; a bad pad is what the NOT_BADPAD rows have. -/
theorem onlyTrapsAndBadPadsRaise : Obligations.OnlyTrapsAndBadPadsRaise := by
  intro s t h
  obtain ⟨s', hframe, rfl⟩ | ⟨-, rfl⟩ | ⟨v, hv, htrap, rfl⟩ | ⟨hop, hpad, rfl⟩ := step_cases h
  · obtain ⟨hrun, -⟩ | ⟨hrun, -⟩ := afterContinue_run (step_next h).1 hframe.run <;> simp [hrun]
  · simp
  · refine ⟨fun e he => ⟨v, hv, htrap, ?_⟩, fun f hf => ?_⟩
    · cases he; rfl
    · cases hf
  · refine ⟨fun e he => ?_, fun f hf => ⟨(mnemonic_eq_badPad_iff _).mpr ⟨hop, hpad⟩, ?_⟩⟩
    · cases he
    · cases hf; rfl

/-- Settles O46: memory stays as it was, so the word that a fault would record never comes. -/
theorem noBadPadMeansNoFatal : Obligations.NoBadPadMeansNoFatal := by
  intro s hrun hpads t hreach
  refine (hreach.preserves (P := fun u => u.mem = s.mem ∧ ∀ f, u.run ≠ .fatal f) (fun u v hstep hu => ?_)
    ⟨rfl, by simp [hrun]⟩).2
  refine ⟨(step_keeps_mem hstep).trans hu.1, ?_⟩
  obtain ⟨u', hframe, rfl⟩ | ⟨-, rfl⟩ | ⟨_, -, -, rfl⟩ | ⟨hop, hpad, -⟩ := step_cases hstep
  · obtain ⟨hrun, -⟩ | ⟨hrun, -⟩ := afterContinue_run (step_next hstep).1 hframe.run <;> simp [hrun]
  · simp
  · simp
  · rw [State.fetch, hu.1] at hop hpad
    exact absurd (hpads _ hop) hpad

/-! ### The next `pc` -/

/-- Settles O40: the handler's `pc` is the old one or a taken branch's sum, and the end of the Step advances it or stops
there. -/
theorem nextPcCandidates : Obligations.NextPcCandidates := by
  intro s t h
  obtain ⟨s', hframe, rfl⟩ | ⟨-, rfl⟩ | ⟨_, -, -, rfl⟩ | ⟨-, -, rfl⟩ := step_cases h
  · obtain ⟨hrun, hpc⟩ | ⟨hrun, hpc, htop⟩ := afterContinue_run (step_next h).1 hframe.run
    · refine ⟨fun _ => ?_, fun hne => absurd hrun hne⟩
      rw [hpc]
      obtain hpc' | ⟨n, z, p, off, hbr, htaken, hpc'⟩ := hframe.pc
      · exact .inl (by rw [hpc'])
      · exact .inr ⟨n, z, p, off, hbr, htaken, by rw [hpc']⟩
    · refine ⟨fun hrun' => (nomatch hrun.symm.trans hrun'), fun _ => ?_⟩
      obtain hpc' | ⟨n, z, p, off, hbr, htaken, hpc'⟩ := hframe.pc
      · exact .inl (by rw [hpc, ← htop, hpc'])
      · exact .inr ⟨n, z, p, off, hbr, htaken, by rw [hpc, ← htop, hpc'], hpc, hrun⟩
  · exact ⟨nofun, fun _ => .inl rfl⟩
  · exact ⟨nofun, fun _ => .inl rfl⟩
  · exact ⟨nofun, fun _ => .inl rfl⟩

/-! ### The host's dispatch -/

theorem hostDispatch_afterFatal {w : Word} {s : State} {f : FatalFault} (h : s.run = .fatal f) :
    hostDispatch w s = .fault (.afterFatal f) := by
  rw [hostDispatch, h]

theorem hostDispatch_eq_hostReply {w : Word} {s : State} (h : ∀ f, s.run ≠ .fatal f) :
    hostDispatch w s = hostReply s (dispatchWord params w s) := by
  unfold hostDispatch
  split
  case h_1 f hf => exact absurd hf (h f)
  case h_2 => rfl

/-- Settles O49: by the ways a dispatch ends. -/
theorem hostDispatchRunsTheHandlerOnly : Obligations.HostDispatchRunsTheHandlerOnly := by
  refine fun w s => ⟨fun f => hostDispatch_afterFatal, fun hlive => ?_⟩
  rw [hostDispatch_eq_hostReply hlive]
  obtain ⟨s', hd, hframe⟩ | ⟨-, hd⟩ | ⟨_, -, -, hd⟩ | ⟨-, -, hd⟩ := dispatchWord_cases w s
  all_goals rw [hd]; refine ⟨_, _, rfl, ?_⟩
  · refine ⟨rfl, rfl, hframe.run, ?_⟩
    obtain hpc | ⟨n, z, p, off, hbr, -, hpc⟩ := hframe.pc
    · exact .inl hpc
    · exact .inr ⟨n, z, p, off, hbr, hpc⟩
  · exact ⟨rfl, rfl⟩
  · exact ⟨rfl, rfl⟩
  · exact ⟨rfl, rfl⟩

end Sys2Proof.Machine

/-! ## Proofs: the registers and the condition, by instruction -/

namespace Sys2Proof.Machine

/-! ### The instructions that write a register and those that do not -/

/-- R14: an instruction with a destination writes it and goes on, under any parameters. -/
theorem handle_of_writtenReg {i : Instr} {dest : RegIdx} (h : writtenReg i = some dest) (p : Params) (s : State) :
    ∃ v, handle p i s = .continues (s.writeReg dest v) := by
  cases i
  case addReg | addImm | andReg | andImm | not => cases h; exact ⟨_, rfl⟩
  all_goals cases h

/-- A handler's end that leaves the registers and the condition source alone. -/
def HandlerResult.KeepsRegs (s : State) : HandlerResult → Prop
  | .continues s' => SameRegs s s'
  | .halts s' => SameRegs s s'
  | .error _ | .fatal _ | .refuses _ => True

theorem sameRegs_refl (s : State) : SameRegs s s := ⟨fun _ => rfl, rfl⟩

/-- The NOT_BADPAD rows are among these by the order of the pad check (D8). -/
theorem handle_keepsRegs {i : Instr} (hwf : i.wf = true) (h : writtenReg i = none) (p : Params) (s : State) :
    (handle p i s).KeepsRegs s := by
  have bad : ∀ dest src pad, i ∈ badPadRows dest src pad → (handle p i s).KeepsRegs s := fun _ _ _ hi => by
    rw [handle_wf_of_mem_badPadRows hi hwf]
    trivial
  cases i with
  | addReg | addImm | andReg | andImm | not => cases h
  | br n z pos off =>
    simp only [handle, handleBr]
    split <;> exact sameRegs_refl s
  | trap v =>
    simp only [handle, handleTrap]
    split
    · exact sameRegs_refl s
    · trivial
  | notBadPad0 d a pad | notBadPad10 d a pad | notBadPad110 d a pad | notBadPad1110 d a pad | notBadPad11110 d a pad
  | notBadPad111110 d a pad => exact bad d a pad (by simp [badPadRows])
  | rsv u => exact sameRegs_refl s
  | ld u | st u | jsr u | ldr u | str u | rti u | ldi u | sti u | jmpRet u | lea u =>
    simp only [handle, handlePlaceholder]
    split
    · exact sameRegs_refl s
    · trivial

theorem retire_keepsRegs {p : Params} {s t : State} {r : HandlerResult} (hr : r.KeepsRegs s)
    (h : retire p s r = .next t) : SameRegs s t := by
  obtain ⟨s', rfl, rfl⟩ | ⟨s', rfl, rfl⟩ | ⟨_, -, rfl⟩ | ⟨_, -, rfl⟩ := retire_next h
  · exact ⟨fun j => (afterContinue_reg p s' j).trans (hr.1 j), (afterContinue_cond p s').trans hr.2⟩
  · exact hr
  · exact sameRegs_refl s
  · exact sameRegs_refl s

/-! ### One instruction -/

section OneInstruction

variable {i : Instr} {s t : State}

theorem exec_sameRegs (hwf : i.wf = true) (hnone : writtenReg i = none) (h : exec i s = .next t) : SameRegs s t := by
  rw [exec_eq_retire] at h
  exact retire_keepsRegs (handle_keepsRegs hwf hnone params s) h

theorem exec_writes {dest : RegIdx} (hdest : writtenReg i = some dest) (h : exec i s = .next t) :
    t.cond = dest ∧ SameRegsExcept dest s t ∧ conditionClass t = cls (t.reg dest) := by
  obtain ⟨v, hv⟩ := handle_of_writtenReg hdest params s
  obtain ⟨t', hexec, hreg, hcond, hclass, hframe, -⟩ := exec_of_writes hv
  cases h.symm.trans hexec
  exact ⟨hcond, hframe, hclass.trans (by rw [hreg])⟩

theorem SameRegs.conditionClass_eq (h : SameRegs s t) : conditionClass t = conditionClass s := by
  rw [conditionClass, h.2, h.1, conditionClass]

/-- The class after an instruction is what the flags of R17 would latch. -/
theorem exec_conditionClass (hwf : i.wf = true) (h : exec i s = .next t) :
    conditionClass t = latchFlag (conditionClass s) (writtenReg i) t := by
  cases hw : writtenReg i with
  | none => exact (exec_sameRegs hwf hw h).conditionClass_eq
  | some dest => exact (exec_writes hw h).2.2

end OneInstruction

/-- Settles O13: by whether the instruction has a destination. -/
theorem onlyAluInstructionsWriteRegisters : Obligations.OnlyAluInstructionsWriteRegisters := by
  intro i s t hwf h
  cases i
  case addReg | addImm | andReg | andImm | not =>
    obtain ⟨hcond, hframe, -⟩ := exec_writes rfl h
    exact ⟨hcond, hframe⟩
  all_goals exact exec_sameRegs hwf rfl h

/-- Settles O14: the class after an instruction is the latched one. -/
theorem conditionClassIsThatOfTheLastWrite : Obligations.ConditionClassIsThatOfTheLastWrite :=
  fun _ _ _ => exec_conditionClass

/-! ### Explicit flags -/

/-- While the flags are the class of the condition source, BR tests the same class in both machines. -/
theorem handleFlags_eq_handle {f : FlagState} (hflag : f.flag = conditionClass f.core) (p : Params) (i : Instr) :
    handleFlags p i f = handle p i f.core := by
  cases i
  case br n z pos off => simp only [handleFlags, handleBrFlags, hflag, handle, handleBr]
  all_goals rfl

theorem FlagState.step_of_next {f : FlagState} {t : State} (hflag : f.flag = conditionClass f.core)
    (h : Machine.step f.core = .next t) :
    f.step = .next { core := t, flag := latchFlag f.flag (writtenReg (decode f.core.fetch)) t } := by
  obtain ⟨hrun, hexec⟩ := step_next h
  rw [exec_eq_retire] at hexec
  rw [FlagState.step, if_pos hrun, handleFlags_eq_handle hflag, hexec]

theorem FlagState.step_of_ended {f : FlagState} (h : f.core.run ≠ .running) :
    f.step = .fault (.noStepEnabled f.core.run) := if_neg h

/-- Settles O51: with the flags in step both machines run the same handler, and each write latches the class that the
index would give. -/
theorem explicitFlagsAgree : Obligations.ExplicitFlagsAgree := by
  refine ⟨conditionClass_reset.symm, fun f hflag => ⟨fun t h => ?_, fun r => ?_⟩⟩
  · refine ⟨_, FlagState.step_of_next hflag h, rfl, ?_⟩
    rw [hflag]
    exact (exec_conditionClass (decode_wf _) (step_next h).2).symm
  · by_cases hrun : f.core.run = .running
    · obtain ⟨t, ht⟩ := exec_eq_next (decode f.core.fetch) f.core
      have hstep : step f.core = .next t := (step_eq_exec hrun).trans ht
      rw [hstep, FlagState.step_of_next hflag hstep]
      exact iff_of_false nofun nofun
    · rw [step_eq_fault hrun, FlagState.step_of_ended hrun, Host.Outcome.fault.injEq, Host.Outcome.fault.injEq]

end Sys2Proof.Machine

/-! ## Proofs: the Step, BR and NOT -/

namespace Sys2Proof.Machine

/-- Settles O33: the end of the Step, case by case of the handler's end. -/
theorem execFollowsDispatch : Obligations.ExecFollowsDispatch := by
  intro i s
  rw [exec_eq_retire]
  cases handle params i s <;> rfl

/-- Settles O34: a Step from `Running` is the instruction of the fetched word. -/
theorem stepRunsTheDecodedInstruction : Obligations.StepRunsTheDecodedInstruction := by
  rintro s i hrun rfl
  exact step_eq_exec hrun

/-- Settles O36: no Step is enabled. -/
theorem noStepAfterTheRunIsOver : Obligations.NoStepAfterTheRunIsOver := fun _ => step_eq_fault

/-- Settles O37: no handler refuses, and every other end has a next state. -/
theorem execAlwaysAnswersNext : Obligations.ExecAlwaysAnswersNext := exec_eq_next

/-! ### BR -/

theorem continuesAt_afterContinue {s s' : State} (h : s'.run = s.run) :
    ContinuesAt s'.pc s (afterContinue params s') := by
  obtain ⟨htop, heq⟩ | ⟨htop, heq⟩ := afterContinue_cases params s'
  · rw [ContinuesAt, ← params_topAddr, if_pos htop, heq]
    exact ⟨rfl, rfl⟩
  · rw [ContinuesAt, ← params_topAddr, if_neg htop, heq]
    exact ⟨rfl, h⟩

/-- Settles O29: by the two cases of the predicate; the end of the Step does the rest. -/
theorem branchAddsItsOffset : Obligations.BranchAddsItsOffset := by
  intro n z p off s
  split
  case isTrue htaken =>
    refine ⟨_, exec_of_continues (handleBr_taken params off htaken), ?_, ?_, ?_⟩
    · rw [BitVec.ofNat_toNat]
      exact continuesAt_afterContinue (s.advancePc_run _)
    · exact ⟨afterContinue_reg _ _, afterContinue_cond _ _⟩
    · exact fun a => by rw [afterContinue_mem, State.advancePc_mem]
  case isFalse htaken =>
    refine ⟨_, exec_of_continues (handleBr_untaken params off htaken), continuesAt_afterContinue rfl, ?_, ?_⟩
    · exact ⟨afterContinue_reg _ _, afterContinue_cond _ _⟩
    · exact fun a => by rw [afterContinue_mem]

/-- Settles O30: the write makes its value the one that the condition source names, and the next Step is the BR. -/
theorem branchAfterWriteTestsTheValue : Obligations.BranchAfterWriteTestsTheValue := by
  intro s t dest n z p off hstep hdest hrun hbr
  obtain ⟨-, -, hclass⟩ := exec_writes hdest (step_next hstep).2
  obtain ⟨u, hu, hcontinues, -⟩ := branchAddsItsOffset n z p off t
  refine ⟨u, ?_, hclass ▸ hcontinues⟩
  rw [step_eq_exec hrun, hbr, hu]

/-! ### NOT -/

theorem decode_not_of_masked {w : Word} (h : w &&& 0xF03F#16 = 0x903F#16) :
    decode w = .not (destField w) (src1Field w) := by
  have hpad : padField w = 0b111111#6 := by
    calc padField w
        = padField 0x903F#16 := extractLsb'_eq_of_masked (mask := 0xF03F#16) (by decide) (by rw [h]; rfl)
      _ = 0b111111#6 := by decide
  exact (decode_not (opcodeField_of_masked (by decide) h)).trans (decodeNot_of_ones hpad)

/-- Settles O25: the words by the mask's opcode and pad, the rest by the one register write. -/
theorem notComplements : Obligations.NotComplements := by
  refine ⟨fun w => decode_not_of_masked, fun dest src s => ?_⟩
  have hwrite : handle params (.not dest src) s = .continues (s.writeReg dest (~~~ s.reg src)) := rfl
  obtain ⟨t, hexec, hreg, hcond, hclass, hframe⟩ := exec_of_writes hwrite
  refine ⟨t, hexec, fun k hk => ?_, hcond, ?_, hframe⟩
  · rw [hreg, BitVec.getLsbD_not, decide_eq_true hk, Bool.true_and]
  · rw [hclass, hreg]

/-- Settles O27: the handler of a well-formed NOT_BADPAD row is a fault, and a fault changes `run` alone. -/
theorem badPaddingWritesNothing : Obligations.BadPaddingWritesNothing :=
  fun _ _ _ s _ hi hwf => exec_of_fatal (handle_wf_of_mem_badPadRows hi hwf params s)

end Sys2Proof.Machine

/-! ## Proofs: memory -/

namespace Sys2Proof.Machine

/-! ### Read after write -/

/-- Below the first cell nothing is listed. -/
theorem Memory.lookup_of_lt {m : Memory} {a : Nat} (h : ∀ c ∈ m, a < c.1) : Memory.lookup m a = Memory.unlisted := by
  induction m with
  | nil => rfl
  | cons c m ih =>
    rw [List.forall_mem_cons] at h
    rw [Memory.lookup, if_neg (Nat.ne_of_gt h.1), ih h.2]

theorem Memory.lookup_cell {m : Memory} {a : Nat} (v : Word) (h : ∀ c ∈ m, a < c.1) (b : Nat) :
    Memory.lookup (Memory.cell a v m) b = if b = a then v else Memory.lookup m b := by
  unfold Memory.cell
  split_ifs with hv hb hb
  · rw [hb, hv, Memory.lookup_of_lt h]
  · rfl
  · rw [Memory.lookup, if_pos hb.symm]
  · rw [Memory.lookup, if_neg (Ne.symm hb)]

/-- R34 on the list: the canonical order makes the one written cell the only one that answers. -/
theorem Memory.lookup_update {m : Memory} (h : Memory.wf m) (a : Nat) (v : Word) (b : Nat) :
    Memory.lookup (Memory.update m a v) b = if b = a then v else Memory.lookup m b := by
  induction m with
  | nil => exact Memory.lookup_cell v (by simp) b
  | cons c m ih =>
    obtain ⟨d, u⟩ := c
    obtain ⟨hd, -, -, hm⟩ := Memory.wf_cons.mp h
    rw [Memory.update]
    split
    case isTrue hlt => exact Memory.lookup_cell v (List.forall_mem_cons.mpr ⟨hlt, fun c hc => hlt.trans (hd c hc)⟩) b
    case isFalse =>
      split
      case isTrue heq =>
        subst heq
        rw [Memory.lookup_cell v hd]
        split
        case isTrue => rfl
        case isFalse hb => rw [Memory.lookup, if_neg (Ne.symm hb)]
      case isFalse hne =>
        rw [Memory.lookup, Memory.lookup, ih hm]
        by_cases hb : d = b
        · rw [if_pos hb, if_pos hb, if_neg fun hba => hne (hba.symm.trans hb.symm)]
        · rw [if_neg hb, if_neg hb]

theorem Memory.read_write {m : Memory} (h : Memory.wf m) (a v b : Word) :
    Memory.read (Memory.write m a v) b = if b = a then v else Memory.read m b := by
  simp only [Memory.read, Memory.write, Memory.lookup_update h, BitVec.toNat_inj]

/-- Settles O18: the write by reading after it, the instructions by the ways a handler can end. -/
theorem memoryWriteThenRead : Obligations.MemoryWriteThenRead := by
  refine ⟨fun s a v hwf => ⟨?_, fun b hb => ?_, rfl, rfl, rfl, rfl, Memory.write_wf a v hwf⟩,
    fun _ _ _ => exec_keeps_mem⟩
  · rw [State.writeMem_mem, Memory.read_write hwf, if_pos rfl]
  · rw [State.writeMem_mem, Memory.read_write hwf, if_neg hb]

/-! ### No data word is read -/

/-- The state with another memory in place. -/
def State.withMem (m : Memory) (s : State) : State := { s with mem := m }

/-- A handler's end, with another memory in its state. -/
def HandlerResult.withMem (m : Memory) : HandlerResult → HandlerResult
  | .continues s => .continues (s.withMem m)
  | .halts s => .halts (s.withMem m)
  | .error e => .error e
  | .fatal f => .fatal f
  | .refuses mnemonic => .refuses mnemonic

theorem handle_withMem (p : Params) (i : Instr) (m : Memory) (s : State) :
    handle p i (s.withMem m) = (handle p i s).withMem m := by
  cases i with
  | br n z pos off =>
    have hclass : conditionClass (s.withMem m) = conditionClass s := rfl
    simp only [handle, handleBr, hclass]
    split <;> rfl
  | trap v =>
    simp only [handle, handleTrap]
    split <;> rfl
  | notBadPad0 d a pad | notBadPad10 d a pad | notBadPad110 d a pad | notBadPad1110 d a pad
  | notBadPad11110 d a pad | notBadPad111110 d a pad =>
    simp only [handle, handleNot]
    split <;> rfl
  | ld u | st u | jsr u | ldr u | str u | rti u | ldi u | sti u | jmpRet u | lea u =>
    simp only [handle, handlePlaceholder]
    split <;> rfl
  | addReg d a b | addImm d a k | andReg d a b | andImm d a k | not d a | rsv u => rfl

theorem afterContinue_withMem (p : Params) (m : Memory) (s : State) :
    afterContinue p (s.withMem m) = (afterContinue p s).withMem m := by
  unfold afterContinue State.withMem
  split <;> rfl

/-- Settles O20: neither a handler nor the end of a Step looks at the memory in place. -/
theorem instructionsReadNoMemory : Obligations.InstructionsReadNoMemory := by
  intro i s t m h
  rw [exec_eq_retire] at h
  change exec i (s.withMem m) = .next (t.withMem m)
  rw [exec_eq_retire, handle_withMem]
  obtain ⟨s', hh, rfl⟩ | ⟨s', hh, rfl⟩ | ⟨e, hh, rfl⟩ | ⟨f, hh, rfl⟩ := retire_next h
  · rw [hh, ← afterContinue_withMem]
    rfl
  all_goals rw [hh]; rfl

end Sys2Proof.Machine

/-! ## Proofs: runs under fuel -/

namespace Sys2Proof.Machine

theorem runFor_of_next {s t : State} (fuel : Nat) (h : step s = .next t) : runFor (fuel + 1) s = runFor fuel t := by
  rw [runFor, h]

/-- Once the run is over, no fuel changes anything. -/
theorem runFor_of_ended {s : State} (fuel : Nat) (h : s.run ≠ .running) : runFor fuel s = s := by
  cases fuel with
  | zero => rfl
  | succ fuel => rw [runFor, step_eq_fault h]

theorem StepsTo.runFor_add {n : Nat} {s t : State} (h : StepsTo n s t) (m : Nat) :
    runFor (n + m) s = runFor m t := by
  induction h with
  | none => rw [Nat.zero_add]
  | more hst _ ih => rw [Nat.add_right_comm, runFor_of_next _ hst, ih]

/-- R78: the fuel is used up, one Step for each, unless the run ends. -/
theorem exists_stepsTo_runFor (n : Nat) (s : State) :
    ∃ k, k ≤ n ∧ StepsTo k s (runFor n s) ∧ (k < n → (runFor n s).run ≠ .running) := by
  induction n generalizing s with
  | zero => exact ⟨0, le_rfl, .none s, fun h => absurd h (Nat.lt_irrefl 0)⟩
  | succ n ih =>
    by_cases hrun : s.run = .running
    · obtain ⟨t, hexec⟩ := exec_eq_next (decode s.fetch) s
      have hstep : step s = .next t := (step_eq_exec hrun).trans hexec
      obtain ⟨k, hk, hsteps, hended⟩ := ih t
      rw [runFor_of_next n hstep]
      exact ⟨k + 1, Nat.succ_le_succ hk, .more hstep hsteps, fun hlt => hended (Nat.lt_of_succ_lt_succ hlt)⟩
    · rw [runFor_of_ended _ hrun]
      exact ⟨0, Nat.zero_le _, .none s, fun _ => hrun⟩

/-- R77: the report tells the ends of a run apart. -/
theorem report_iff (r : RunState) :
    (r.report = .success ↔ r = .halted) ∧ (∀ e, r.report = .error e ↔ r = .error e) ∧
      (∀ f, r.report = .fatal f ↔ r = .fatal f) := by
  cases r <;> simp [RunState.report]

/-- Settles O41: fuel for the Steps taken runs them, what is left over changes nothing after the end. -/
theorem runEqualsStepping : Obligations.RunEqualsStepping := by
  refine ⟨fun n s t h => h.runFor_add 0, exists_stepsTo_runFor, fun n m s t h hended hle => ?_, report_iff⟩
  obtain ⟨j, rfl⟩ := Nat.exists_eq_add_of_le hle
  rw [h.runFor_add j, runFor_of_ended j hended]

end Sys2Proof.Machine

/-! ## Proofs: the host's operations -/

namespace Sys2Proof.Machine

/-! ### Load -/

theorem add_ofNat_succ (a : Word) (k : Nat) : a + BitVec.ofNat 16 (k + 1) = a + 1#16 + BitVec.ofNat 16 k := by
  rw [BitVec.add_assoc, Nat.add_comm, BitVec.ofNat_add]

/-- R141: a word is written at each address from `a` on, and nowhere else. -/
theorem Memory.read_writeAll_other {m : Memory} (hwf : Memory.wf m) (a : Word) (words : List Word) {b : Word}
    (hb : ∀ k < words.length, b ≠ a + BitVec.ofNat 16 k) :
    Memory.read (Memory.writeAll m a words) b = Memory.read m b := by
  induction words generalizing m a with
  | nil => rfl
  | cons v rest ih =>
    have hhead : b ≠ a := by simpa using hb 0 (Nat.succ_pos _)
    rw [Memory.writeAll, ih (Memory.write_wf a v hwf), Memory.read_write hwf, if_neg hhead]
    intro k hk
    have hnext := hb (k + 1) (Nat.succ_lt_succ hk)
    rwa [add_ofNat_succ] at hnext

/-- The addresses of an image that fits into memory do not come round to its first one (D13). -/
theorem ne_add_succ_of_lt {a : Word} {k : Nat} (hk : k + 1 < 65536) : a ≠ a + 1#16 + BitVec.ofNat 16 k := by
  bv_omega

theorem Memory.read_writeAll {m : Memory} (hwf : Memory.wf m) (a : Word) (words : List Word)
    (hlen : words.length ≤ 65536) (k : Nat) (hk : k < words.length) :
    Memory.read (Memory.writeAll m a words) (a + BitVec.ofNat 16 k) = words[k] := by
  induction words generalizing m a k with
  | nil => exact absurd hk (Nat.not_lt_zero k)
  | cons v rest ih =>
    rw [List.length_cons] at hlen
    have hwf' := Memory.write_wf a v hwf
    cases k with
    | zero =>
      have hzero : a + BitVec.ofNat 16 0 = a := BitVec.add_zero a
      rw [hzero, Memory.writeAll, Memory.read_writeAll_other hwf', Memory.read_write hwf, if_pos rfl]
      · rfl
      · exact fun j hj => ne_add_succ_of_lt (by omega)
    | succ k =>
      rw [List.length_cons] at hk
      rw [add_ofNat_succ, Memory.writeAll, ih hwf' (a + 1#16) (by omega) k (by omega), List.getElem_cons_succ]

/-- Settles O47: by the reads after the loader's writes. -/
theorem loadWritesTheImage : Obligations.LoadWritesTheImage := by
  refine ⟨fun _ => rfl, fun pc0 words s hlong => if_neg (Nat.not_le.mpr hlong), fun pc0 words s hwf hlen => ?_⟩
  exact ⟨load pc0 words s, if_pos hlen, rfl, Memory.read_writeAll hwf pc0 words hlen,
    fun a => Memory.read_writeAll_other hwf pc0 words, rfl, rfl, rfl⟩

/-! ### The bytes of an image -/

theorem wordsOfBytes_bigEndian (image : List Word) :
    wordsOfBytes (image.flatMap (fun w => [w.extractLsb' 8 8, w.extractLsb' 0 8])) = some image := by
  induction image with
  | nil => rfl
  | cons w rest ih =>
    have hw : w.extractLsb' 8 8 ++ w.extractLsb' 0 8 = w := by
      rw [BitVec.extractLsb'_append_extractLsb'_eq_extractLsb' (by rfl)]
      exact BitVec.extractLsb'_eq_self
    rw [List.flatMap_cons]
    change (wordsOfBytes (rest.flatMap _)).map _ = _
    rw [ih, Option.map_some, hw]

theorem wordsOfBytes_odd (bytes : List Byte) (h : bytes.length % 2 = 1) : wordsOfBytes bytes = none := by
  induction bytes using wordsOfBytes.induct with
  | case1 => exact absurd h (by decide)
  | case2 => rfl
  | case3 hi lo rest ih =>
    have hrest : rest.length % 2 = 1 := by
      rw [List.length_cons, List.length_cons] at h
      omega
    rw [wordsOfBytes, ih hrest, Option.map_none]

/-- Settles O48: by induction on the words, and on the pairs of bytes. -/
theorem imageBytesAreBigEndian : Obligations.ImageBytesAreBigEndian := by
  refine ⟨fun image s => ?_, fun bytes s h => ?_⟩
  · rw [loadBytes, wordsOfBytes_bigEndian, Option.bind_some]
  · rw [loadBytes, wordsOfBytes_odd bytes h, Option.bind_none]

/-! ### The checked register accessors -/

theorem getRegister_of_lt {n : Nat} (h : n < 8) (s : State) : getRegister n s = .ok (s.reg ⟨n, h⟩) := dif_pos h

theorem getRegister_of_ge {n : Nat} (h : 8 ≤ n) (s : State) : getRegister n s = .error (.badRegisterIndex n) :=
  dif_neg (Nat.not_lt.mpr h)

theorem setRegister_of_lt {n : Nat} (h : n < 8) (v : Word) (s : State) :
    setRegister n v s = .ok (s.writeReg ⟨n, h⟩ v) := dif_pos h

theorem setRegister_of_ge {n : Nat} (h : 8 ≤ n) (v : Word) (s : State) :
    setRegister n v s = .error (.badRegisterIndex n) :=
  dif_neg (Nat.not_lt.mpr h)

/-- Settles O17: by the accessors' bound. -/
theorem registerAccessorsFailFast : Obligations.RegisterAccessorsFailFast := by
  refine fun s v n => ⟨?_, fun h => ?_⟩
  · rintro i rfl
    refine ⟨getRegister_of_lt i.isLt s, setRegister_of_lt i.isLt v s, ?_⟩
    rw [hostReadRegister, getRegister_of_lt i.isLt]
  · refine ⟨getRegister_of_ge h s, setRegister_of_ge h v s, ?_⟩
    rw [hostReadRegister, getRegister_of_ge h]
    rfl

/-! ### The canonical form of memory -/

theorem hostDispatch_keeps_mem {w : Word} {s t : State} {r : HostReply}
    (h : hostDispatch w s = .next (r, t)) : t.mem = s.mem := by
  by_cases hfatal : ∃ f, s.run = .fatal f
  · obtain ⟨f, hf⟩ := hfatal
    exact nomatch (hostDispatch_afterFatal hf).symm.trans h
  · rw [hostDispatch_eq_hostReply (not_exists.mp hfatal)] at h
    obtain ⟨s', hd, hframe⟩ | ⟨-, hd⟩ | ⟨_, -, -, hd⟩ | ⟨-, -, hd⟩ := dispatchWord_cases w s
    all_goals rw [hd] at h; cases h
    · exact hframe.mem
    · rfl
    · rfl
    · rfl

theorem hostReadRegister_mem (n : Nat) (s : State) : (hostReadRegister n s).2.mem = s.mem := by
  unfold hostReadRegister
  split <;> rfl

theorem setRegister_mem {n : Nat} {v : Word} {s t : State} (h : setRegister n v s = .ok t) : t.mem = s.mem := by
  unfold setRegister at h
  split at h <;> cases h
  rfl

/-- Settles O50: the loader and the placing of a word write canonically, and the others leave memory as it is. -/
theorem everyOperationKeepsMemoryCanonical : Obligations.EveryOperationKeepsMemoryCanonical := by
  intro s hwf
  refine ⟨fun t h => ?_, fun pc0 words => Memory.writeAll_wf pc0 words hwf, fun w r t h => ?_, fun i => ?_,
    fun i v t h => ?_, fun nbits w => Memory.write_wf _ _ hwf⟩
  · rwa [step_keeps_mem h]
  · rwa [hostDispatch_keeps_mem h]
  · rwa [hostReadRegister_mem]
  · rwa [setRegister_mem h]

end Sys2Proof.Machine

/-! ## Proofs: the parameters -/

namespace Sys2Proof.Machine

/-! ### The extensions -/

theorem extendField_sext_of_small {n : Nat} {field : BitVec n} (h : 2 * field.toNat < 2 ^ n) :
    extendField .sext field = extendField .zext field :=
  BitVec.signExtend_eq_setWidth_of_msb_false (BitVec.msb_eq_false_iff_two_mul_lt.mpr h)

/-- An instruction of which both choices of the parameters have one handler has one Step, if the loop stops at the same
address. -/
theorem execWith_eq_exec {p : Params} {i : Instr} {s : State} (htop : p.topAddr = params.topAddr)
    (h : handle p i s = handle params i s) : execWith p i s = exec i s := by
  rw [exec_eq_retire, execWith, h]
  cases handle params i s with
  | continues s' => simp only [retire, afterContinue, htop]
  | halts | error | fatal | refuses => rfl

theorem signExtend_offset_of_large {off : BitVec 9} (h : 256 ≤ off.toNat) :
    off.signExtend 16 = 0#16 - BitVec.ofNat 16 (512 - off.toNat) := by
  have hmsb : off.msb = true := BitVec.msb_eq_true_iff_two_mul_ge.mpr (by omega)
  apply BitVec.eq_of_toNat_eq
  rw [BitVec.toNat_signExtend, hmsb]
  simp only [BitVec.toNat_setWidth, Nat.reducePow, ↓reduceIte, Nat.reduceSub, BitVec.zero_sub, BitVec.toNat_neg,
    BitVec.toNat_ofNat]
  omega

/-- Settles O52: below its top bit a field extends to itself either way; the top bit takes 512 off an offset. -/
theorem extensionChoiceAgreesOnSmallFields : Obligations.ExtensionChoiceAgreesOnSmallFields := by
  refine ⟨fun n z p off s h => ?_, fun dest src1 k s h => ?_, fun off => signExtend_offset_of_large⟩
  · have hoff : branchOffset { params with off9Extension := .sext } off = branchOffset params off :=
      extendField_sext_of_small (by omega)
    exact execWith_eq_exec rfl (by simp only [handle, handleBr, hoff])
  · have himm : immOperand { params with imm5Extension := .sext } k = immOperand params k :=
      extendField_sext_of_small (by omega)
    exact ⟨execWith_eq_exec rfl (by simp only [handle, handleAddImm, himm]),
      execWith_eq_exec rfl (by simp only [handle, handleAndImm, himm])⟩

/-! ### The placeholder policy -/

/-- Settles O53: the ten by their common handler, the others because their handlers do not look at the policy. -/
theorem refusePolicyRefusesThePlaceholders : Obligations.RefusePolicyRefusesThePlaceholders := by
  refine fun i s => ⟨?_, fun hother => execWith_eq_exec rfl ?_⟩
  · rintro ⟨u, hi⟩
    simp only [List.mem_cons, List.not_mem_nil, or_false] at hi
    rcases hi with rfl | rfl | rfl | rfl | rfl | rfl | rfl | rfl | rfl | rfl <;> rfl
  · cases i
    case ld u | st u | jsr u | ldr u | str u | rti u | ldi u | sti u | jmpRet u | lea u =>
      exact absurd (by simp) (hother u)
    all_goals rfl

end Sys2Proof.Machine
